-- ==== Sys2Proof/Word.lean ====
section
/-! DEFINITION. The word of the ports (R11, R14) and the two tuples of ports: the request (R70: `op`, `a`, `b`,
`c`, `d`) and the response (R70: `y0` to `y3`). -/

namespace Sys2Proof

/-- A value on a 64-bit data port: an address, a page-table entry, an index, a flag set (R11: `XLEN = 64`).
Bit 0 is the least significant bit (R14). -/
abbrev Word := BitVec 64

/-- The level on the 4-bit operation-select port `op` (R25, R70). -/
abbrev Op := BitVec 4

/-- The class index of `PERMCLS`, the low three bits of port `a` (R76). -/
abbrev ClassIndex := BitVec 3

/-- The five input ports (R25, R70), format `REQ`, the one request format (R78). -/
structure Request where
  op : Op
  a : Word
  b : Word
  c : Word
  d : Word
deriving DecidableEq, Repr

/-- The four output ports (R25, R70). -/
structure Response where
  y0 : Word
  y1 : Word
  y2 : Word
  y3 : Word
deriving DecidableEq, Repr

/-- The request as one 260-bit vector, `op` at the top, then `a`, `b`, `c`, `d` (R70). -/
def Request.toVector (r : Request) : BitVec 260 :=
  r.op ++ r.a ++ r.b ++ r.c ++ r.d

end Sys2Proof
end

