-- ==== Sys2Proof/Config.lean ====
section
/-! DEFINITION. The hardwired constants of the block (R24): widths, sizes, shifts and masks of R7 to R12, under the
spec's own names, and the two values the spec leaves as its own decision, `PPN_FIELD_MASK` (D8) and the answer to
the reserved class index (D10). There is no free value: the spec states a value for every result. -/

namespace Sys2Proof.Config

/-- R11, decision D1: the width of every data port and of a page-table entry. -/
def XLEN : Nat := 64
/-- R7: the significant bits of a linear address. -/
def VA_BITS : Nat := 39
/-- R7: the significant bits of a physical address. -/
def PA_BITS : Nat := 56
/-- R7: the levels of the translation scheme. -/
def LEVELS : Nat := 3
/-- R8: the entries of a top-level table. -/
def NPDPEENTRY : Nat := 512
/-- R8: the entries of a second-level table. -/
def NPDEENTRY : Nat := 512
/-- R8: the entries of a leaf table. -/
def NPTEENTRY : Nat := 512
/-- R8: the bytes of a page. -/
def PGSIZE : Nat := 4096
/-- R8: the bytes covered by one second-level entry. -/
def PTSIZE : Nat := PGSIZE * 512
/-- R59 (derived there from `PDPXSHIFT`): the bytes covered by one top-level entry. -/
def topEntrySpan : Nat := 2 ^ 30
/-- R8: the width of each table index. -/
def IDX_BITS : Nat := 9
/-- R8: the width of the page offset. -/
def PGOFF_BITS : Nat := 12
/-- R9: the position of the leaf-table index in a linear address. -/
def PTXSHIFT : Nat := 12
/-- R9: the position of the second-level index. -/
def PDXSHIFT : Nat := 21
/-- R9: the position of the top-level index. -/
def PDPXSHIFT : Nat := 30
/-- R9: the width of the page offset, the same number as `PTXSHIFT`. -/
def PGSHIFT : Nat := 12
/-- R9: the position of the PPN field in a page-table entry. -/
def PTE_PPN_SHIFT : Nat := 10
/-- R9: the left shift of `extract_frame_address`. -/
def PTE_ADDR_SHIFT : Nat := PGSHIFT - PTE_PPN_SHIFT
/-- R12: the width of the PPN field. -/
def PPN_BITS : Nat := PA_BITS - PGSHIFT
/-- R10: the mask of one table index. -/
def IDX_MASK : Word := 0x1FF#64
/-- R10: the mask of the page offset. -/
def PGOFF_MASK : Word := 0xFFF#64
/-- R10: the flag region of a page-table entry, bits 9:0. -/
def PTE_FLAGS_MASK : Word := 0x3FF#64
/-- R10: the read, write and execute flags of a page-table entry. -/
def PTE_RWX_MASK : Word := 0x00E#64

/-- R12, decision D8: bits 53:10 of a page-table entry. The spec keeps it a named parameter (U4): notes/assumptions/5. -/
def PPN_FIELD_MASK : Word := 0x003FFFFFFFFFFC00#64

/-- U4: the other value the source's wording allows, every bit from 10 upward. No instruction uses it. -/
def PPN_FIELD_MASK_UNBOUNDED : Word := 0xFFFFFFFFFFFFFC00#64

/-- The constraint 92_eei_decisions.md puts on the parameter `PPN_FIELD_MASK`: bits 9:0 clear, bits 53:10 set. -/
def ppnMaskAdmissible (m : Word) : Bool :=
  m &&& 0x3FF#64 == 0#64 && m &&& 0x003FFFFFFFFFFC00#64 == 0x003FFFFFFFFFFC00#64

/-- R132 and R75, decision D10: what `PERMCLS` answers for the reserved class index 7: notes/assumptions/8. -/
def reservedClassBits : Word := 0#64

/-- R75, decision D5: what the block drives on all four outputs for a reserved `op`: notes/assumptions/7. -/
def reservedOpResponse : Response := ⟨0#64, 0#64, 0#64, 0#64⟩

end Sys2Proof.Config
end

