-- ==== Sys2Proof/Syntax.lean ====
section
/-! DEFINITION. The operations of the block, one constructor for each row of spec/opcode_table.json, with the
operands R73 gives them under the names of the source's functions (R70). An operand is the whole 64-bit value of its
port, unchecked (R73), but for the class index of `PERMCLS`, which is three bits (R76). -/

namespace Sys2Proof

/-- One operation with its operands (R72, R73). The "ignored" operand ports of R73 are no part of it. -/
inductive Instr where
  /-- R90: `(pdpx, pdx, ptx, pgoff) = DECOMP la` -/
  | decomp (la : Word)
  /-- R100: `la = COMPOSE pdpx, pdx, ptx, pgoff` -/
  | compose (pdpx pdx ptx pgoff : Word)
  /-- R91: `ppn = FRAMENO la` -/
  | frameno (la : Word)
  /-- R110: `pte = PTEBUILD frame_base_address, permission_class` -/
  | ptebuild (frameBase permClass : Word)
  /-- R111: `address = PTEADDR pte` -/
  | pteaddr (pte : Word)
  /-- R112: `flag_is_set = PTEFLAG pte, flag_bit`; the second operand is a mask, not an index (R77) -/
  | pteflag (pte flagBit : Word)
  /-- R113: `leaf = PTELEAF pte` -/
  | pteleaf (pte : Word)
  /-- R132: `bits = PERMCLS class` -/
  | permcls (classIndex : ClassIndex)
deriving DecidableEq, Repr

end Sys2Proof
end

