-- ==== Sys2Proof/WellFormed.lean ====
section
/-! DEFINITION. The checks of an instruction as a term. `Instr.wellFormed` says that the instruction uses no encoding
the spec calls reserved (R75, R76). `Instr.brokenDuties` lists the caller's duties of 70_reset_and_hazards.md section
3 that the instruction breaks (H1 to H6). NEITHER IS CHECKED BY THE BLOCK (R17, R81): every term runs; the duties are
what claims take as premises. -/

namespace Sys2Proof

/-- R75: the only reserved encoding inside an operation is class index 7 of `PERMCLS`. R81: no other operand value
makes a request anything but legal. -/
def Instr.wellFormed : Instr → Bool
  | .decomp _ => true
  | .compose _ _ _ _ => true
  | .frameno _ => true
  | .ptebuild _ _ => true
  | .pteaddr _ => true
  | .pteflag _ _ => true
  | .pteleaf _ => true
  | .permcls k => k != 7#3

/-- The duties a caller owes the block (R162 to R165, the table of 70_reset_and_hazards.md section 3). -/
inductive Duty where
  /-- H1, R162: `frame_base_address[11:0] = 0` -/
  | alignedFrame
  /-- H2, R163: `pdpx, pdx, ptx < 512` and `pgoff < 4096` -/
  | fieldsInRange
  /-- H3, R164: V = 1 confirmed before another field of the entry is trusted. DEDUCED (notes/assumptions/13): a request on
  an entry with V clear breaks it, though R164 calls it a precondition of the meaning and not of the value. -/
  | validConfirmed
  /-- H4, R165: `permission_class < 2^10` -/
  | flagsInRegion
  /-- H5, R165: `frame_base_address < 2^56` -/
  | frameInPhysicalSpace
  /-- H6, R165: `flag_bit` is one of the ten single-flag masks -/
  | singleFlag
  /-- R75: the class index is not the reserved 7 -/
  | namedClass
deriving DecidableEq, Repr

/-- R57, R162: the low 12 bits are zero. -/
def alignedFrame (frameBase : Word) : Bool := frameBase &&& Config.PGOFF_MASK == 0#64

/-- R43, R165 (H5): the value fits the 56-bit physical space. -/
def inPhysicalSpace (frameBase : Word) : Bool := decide (frameBase.toNat < 2 ^ 56)

/-- R134, R165 (H4): a flag set lies within bits 9:0. -/
def flagsInRegion (permClass : Word) : Bool := decide (permClass.toNat < 2 ^ 10)

/-- R163 (H2): every field of a `COMPOSE` is within its width. -/
def fieldsInRange (pdpx pdx ptx pgoff : Word) : Bool :=
  decide (pdpx.toNat < 512) && decide (pdx.toNat < 512) && decide (ptx.toNat < 512) && decide (pgoff.toNat < 4096)

/-- R130, R165 (H6): the mask is `1 << i` for a bit `i` of the flag region. -/
def isSingleFlag (flagBit : Word) : Bool := (List.range 10).any fun i => flagBit == 1#64 <<< i

/-- R164 (H3): bit 0 of the entry is set. -/
def entryValid (pte : Word) : Bool := pte.getLsbD 0

/-- The duties an instruction's operands must meet, each with whether they do. R164 (H3) binds every reading of an
entry but the V test itself. -/
def Instr.duties : Instr → List (Duty × Bool)
  | .decomp _ => []
  | .compose p d t o => [(.fieldsInRange, fieldsInRange p d t o)]
  | .frameno _ => []
  | .ptebuild f c =>
    [(.alignedFrame, alignedFrame f), (.frameInPhysicalSpace, inPhysicalSpace f), (.flagsInRegion, flagsInRegion c)]
  | .pteaddr e => [(.validConfirmed, entryValid e)]
  | .pteflag e b => [(.singleFlag, isSingleFlag b), (.validConfirmed, b == 1#64 || entryValid e)]
  | .pteleaf e => [(.validConfirmed, entryValid e)]
  | .permcls k => [(.namedClass, k != 7#3)]

/-- The duties broken by an instruction; several may be broken at once and none takes precedence (R143). -/
def Instr.brokenDuties (i : Instr) : List Duty := (i.duties.filter fun p => !p.2).map Prod.fst

/-- A request "that meets every precondition of its operation" (00_scope.md section 6, "in-contract"). -/
def Instr.inContract (i : Instr) : Bool := i.brokenDuties.isEmpty

end Sys2Proof
end

