-- ==== Sys2Proof/Decode.lean ====
section
/-! DEFINITION. The decoder and the encoder of requests (30_encoding.md): the opcode map R72 as a table with masks
(R71), the operand ports R73, the reserved codes R75, and the 260-bit vector R70. Decoding is total (R81). -/

namespace Sys2Proof

/-- The eight operations of R72, without operands. -/
inductive Opcode where
  | DECOMP | COMPOSE | FRAMENO | PTEBUILD | PTEADDR | PTEFLAG | PTELEAF | PERMCLS
deriving DecidableEq, Repr

/-- One row of the opcode table: the request is the row's when `op AND mask = code`. -/
structure OpRow where
  opcode : Opcode
  mask : Op
  code : Op
deriving DecidableEq, Repr

/-- spec/opcode_table.json, row by row: mask `0xF` over `op` for every row (R71), codes of R72. -/
def opcodeTable : List OpRow :=
  [⟨.DECOMP, 0xF#4, 0x0#4⟩, ⟨.COMPOSE, 0xF#4, 0x1#4⟩, ⟨.FRAMENO, 0xF#4, 0x2#4⟩, ⟨.PTEBUILD, 0xF#4, 0x3#4⟩,
   ⟨.PTEADDR, 0xF#4, 0x4#4⟩, ⟨.PTEFLAG, 0xF#4, 0x5#4⟩, ⟨.PTELEAF, 0xF#4, 0x6#4⟩, ⟨.PERMCLS, 0xF#4, 0x7#4⟩]

/-- R72: the operation code of an operation. -/
def Opcode.code : Opcode → Op
  | .DECOMP => 0x0#4
  | .COMPOSE => 0x1#4
  | .FRAMENO => 0x2#4
  | .PTEBUILD => 0x3#4
  | .PTEADDR => 0x4#4
  | .PTEFLAG => 0x5#4
  | .PTELEAF => 0x6#4
  | .PERMCLS => 0x7#4

/-- R71: the operation selected by `op` alone; none for the reserved codes `0x8` to `0xF` (R75). -/
def Opcode.ofOp (op : Op) : Option Opcode :=
  (opcodeTable.find? fun row => op &&& row.mask == row.code).map OpRow.opcode

/-- R76: the class index is `a[2:0]`; `a[63:3]` is ignored. -/
def classIndexOf (a : Word) : ClassIndex := a.setWidth 3

/-- R73: the operands of an operation, read from the operand ports. -/
def Opcode.withOperands (o : Opcode) (r : Request) : Instr :=
  match o with
  | .DECOMP => .decomp r.a
  | .COMPOSE => .compose r.a r.b r.c r.d
  | .FRAMENO => .frameno r.a
  | .PTEBUILD => .ptebuild r.a r.b
  | .PTEADDR => .pteaddr r.a
  | .PTEFLAG => .pteflag r.a r.b
  | .PTELEAF => .pteleaf r.a
  | .PERMCLS => .permcls (classIndexOf r.a)

/-- What a request decodes to: an instruction, or a reserved operation code, rejected by name (R75, U1). -/
inductive Decoded where
  | instr (i : Instr)
  | reserved (op : Op)
deriving DecidableEq, Repr

/-- The decoder, total on every request (R81). -/
def decode (r : Request) : Decoded :=
  match Opcode.ofOp r.op with
  | some o => .instr (o.withOperands r)
  | none => .reserved r.op

/-- The operation an instruction belongs to. -/
def Instr.opcode : Instr → Opcode
  | .decomp _ => .DECOMP
  | .compose _ _ _ _ => .COMPOSE
  | .frameno _ => .FRAMENO
  | .ptebuild _ _ => .PTEBUILD
  | .pteaddr _ => .PTEADDR
  | .pteflag _ _ => .PTEFLAG
  | .pteleaf _ => .PTELEAF
  | .permcls _ => .PERMCLS

/-- The encoder: the request that asks for an instruction, unused operand ports given as 0 (R72, R73, R79). -/
def encode (i : Instr) : Request :=
  match i with
  | .decomp la => ⟨0x0#4, la, 0#64, 0#64, 0#64⟩
  | .compose p d t o => ⟨0x1#4, p, d, t, o⟩
  | .frameno la => ⟨0x2#4, la, 0#64, 0#64, 0#64⟩
  | .ptebuild f c => ⟨0x3#4, f, c, 0#64, 0#64⟩
  | .pteaddr e => ⟨0x4#4, e, 0#64, 0#64, 0#64⟩
  | .pteflag e b => ⟨0x5#4, e, b, 0#64, 0#64⟩
  | .pteleaf e => ⟨0x6#4, e, 0#64, 0#64, 0#64⟩
  | .permcls k => ⟨0x7#4, k.setWidth 64, 0#64, 0#64, 0#64⟩

/-- The five ports read back from the 260-bit vector of R70. -/
def Request.ofVector (v : BitVec 260) : Request where
  op := v.extractLsb' 256 4
  a := v.extractLsb' 192 64
  b := v.extractLsb' 128 64
  c := v.extractLsb' 64 64
  d := v.extractLsb' 0 64

/-- The request with every operand bit the operation ignores (R26, R73, R76) set to zero. A reserved request keeps
only its code. -/
def Request.clearIgnored (r : Request) : Request :=
  match Opcode.ofOp r.op with
  | some .COMPOSE => r
  | some .PTEBUILD => ⟨r.op, r.a, r.b, 0#64, 0#64⟩
  | some .PTEFLAG => ⟨r.op, r.a, r.b, 0#64, 0#64⟩
  | some .PERMCLS => ⟨r.op, r.a &&& 7#64, 0#64, 0#64, 0#64⟩
  | some .DECOMP => ⟨r.op, r.a, 0#64, 0#64, 0#64⟩
  | some .FRAMENO => ⟨r.op, r.a, 0#64, 0#64, 0#64⟩
  | some .PTEADDR => ⟨r.op, r.a, 0#64, 0#64, 0#64⟩
  | some .PTELEAF => ⟨r.op, r.a, 0#64, 0#64, 0#64⟩
  | none => ⟨r.op, 0#64, 0#64, 0#64, 0#64⟩

/-- The request whose bits are `w`, numbered as spec/opcode_table.json numbers them: the table gives only the 4 bits
of `op`, which are bits 3:0; the operand ports count on from there, `a` in bits 67:4, then `b`, `c`, `d`. Bits of
`w` above `nbits` count as zero. The numbering of the operand ports is the model's: notes/assumptions/9. -/
def tableRequest (nbits w : Nat) : Request :=
  let v := w % 2 ^ nbits
  { op := BitVec.ofNat 4 v
    a := BitVec.ofNat 64 (v / 2 ^ 4)
    b := BitVec.ofNat 64 (v / 2 ^ 68)
    c := BitVec.ofNat 64 (v / 2 ^ 132)
    d := BitVec.ofNat 64 (v / 2 ^ 196) }

/-- The instruction the decoder reads from a word of the opcode table; none where it is reserved. -/
def decodeTableWord (nbits w : Nat) : Option Instr :=
  match decode (tableRequest nbits w) with
  | .instr i => some i
  | .reserved _ => none

end Sys2Proof
end

