-- ==== Sys2Proof/Machine/State.lean ====
section
/-! DEFINITION. The state of the model and the reasons a step can stop. THE BLOCK HAS NO STATE (R20 to R23, R29): no
register, no program counter, no flag, no control register, no memory, nothing hidden. What the model's `State` holds
is the levels on its ports, which are "all a caller can observe" (10_state.md; R25): notes/assumptions/1. -/

namespace Sys2Proof.Machine

/-- The levels on the ports of the block (R25): the request the caller drives and the response the block drives. -/
structure State where
  req : Request
  resp : Response
deriving DecidableEq, Repr

/-- The faults of the block: none. R140: "A model's step function for the AEC has no fault outcome". The type is empty,
so no step can end in one. -/
inductive Fault where
deriving DecidableEq, Repr

/-- The refusals of the model; the block itself refuses nothing (R140). -/
inductive Refusal where
  /-- Raised by an arm of `exec` for an operation without a meaning. No arm raises it: every operation has one. Safe. -/
  | notModelled (mnemonic : String)
  /-- Raised by `step` for the reserved codes `0x8` to `0xF`, which select no operation: R75, "A model should *refuse* a
  reserved request rather than rely on the zero"; U1, "Model treatment: `refuse`". Safe: the block goes on, with all
  outputs zero by the spec's own decision D5 (`eval` says so), and nothing is proved from it. -/
  | reservedOp (op : Op)
deriving DecidableEq, Repr

/-- The ports right after reset. There is nothing to reset (R28, R160); the levels are the caller's, given here as zero,
a choice of the model named in notes/assumptions/2. The outputs are the function of the inputs that R28 asks for: the
request is `DECOMP 0` and its response is four zeros. -/
def State.reset : State where
  req := ⟨0#4, 0#64, 0#64, 0#64, 0#64⟩
  resp := ⟨0#64, 0#64, 0#64, 0#64⟩

end Sys2Proof.Machine
end

