-- ==== Sys2Proof/Machine/Ops.lean ====
section
/-! DEFINITION. The operations every meaning is built from: the shifts of R15, the two ways a port gets a level (the
caller drives a request, the block drives a response), and the shapes of a response (R26, R74). There is no operation
that takes an exception or returns from one, because the block has neither (R140, R144, R145), and none over registers
or memory (R16, R40). -/

namespace Sys2Proof.Machine

/-- R15: `a << n`, truncated to 64 bits; bits shifted past bit 63 are lost (decision D7, notes/assumptions/4). -/
def shl (v : Word) (n : Nat) : Word := v <<< n

/-- R15: `a >> n`, the logical right shift; zeros enter at the top. -/
def shr (v : Word) (n : Nat) : Word := v >>> n

/-- The caller drives a request on the input ports (R171). Nothing else changes. -/
def State.issue (s : State) (r : Request) : State := { s with req := r }

/-- The block drives a response on the output ports (R16, `y0 <- v`). The input ports are the caller's and stay. -/
def State.drive (s : State) (y : Response) : State := { s with resp := y }

/-- R26: a response on `y0` alone; the result ports an operation does not use are zero. -/
def onY0 (w : Word) : Response := ⟨w, 0#64, 0#64, 0#64⟩

/-- R26: a Boolean result is the 64-bit value 0 or 1. -/
def boolWord (p : Bool) : Word := if p then 1#64 else 0#64

/-- The end of every meaning: the response is driven and the evaluation is over (R170). -/
def answer (s : State) (y : Response) : Host.Outcome State Fault Refusal := .next (s.drive y)

end Sys2Proof.Machine
end

