-- ==== Sys2Proof/Machine/Operands.lean ====
section
/-! DEFINITION. The fields of the words that pass through the block: the linear address (R41), the page number
(R44) and the PPN field of a page-table entry (R45, R51). -/

namespace Sys2Proof.Machine

/-- One field by shifting and masking, the form of the formulas of R90. -/
def fieldOf (v : Word) (shift : Nat) (mask : Word) : Word := shr v shift &&& mask

/-- R41, R90: `PDPX`, bits 38:30, the top-level index. -/
def pdpxOf (la : Word) : Word := fieldOf la Config.PDPXSHIFT Config.IDX_MASK

/-- R41, R90: `PDX`, bits 29:21, the second-level index. -/
def pdxOf (la : Word) : Word := fieldOf la Config.PDXSHIFT Config.IDX_MASK

/-- R41, R90: `PTX`, bits 20:12, the leaf-table index. -/
def ptxOf (la : Word) : Word := fieldOf la Config.PTXSHIFT Config.IDX_MASK

/-- R41, R90: `PGOFF`, bits 11:0, the byte offset in the page. -/
def pgoffOf (la : Word) : Word := la &&& Config.PGOFF_MASK

/-- R44: the page number of an address, `address >> 12`, 52 bits, unmasked (conflict C6 keeps it apart from the PPN
field of an entry). -/
def pageNumber (address : Word) : Word := shr address Config.PGSHIFT

/-- R51, R110: a page number moved to the PPN field of an entry. -/
def toPpnField (ppn : Word) : Word := shl ppn Config.PTE_PPN_SHIFT

/-- R111: the frame address read from an entry with a given `PPN_FIELD_MASK`, which the spec keeps a parameter (U4). -/
def frameAddressWith (mask pte : Word) : Word := shl (pte &&& mask) Config.PTE_ADDR_SHIFT

end Sys2Proof.Machine
end

