-- ==== Sys2Proof/Machine/Composer.lean ====
section
/-! DEFINITION. The address composer (41_address_composer.md): `COMPOSE`. -/

namespace Sys2Proof.Machine

/-- R100: the source's `compose(pdpx, pdx, ptx, pgoff) → la`, an OR of shifted operands with no masking: an operand wider
than its field overlaps into the next one (H2, R163). -/
def composeAddress (pdpx pdx ptx pgoff : Word) : Word :=
  shl pdpx Config.PDPXSHIFT ||| shl pdx Config.PDXSHIFT ||| shl ptx Config.PTXSHIFT ||| pgoff

/-- `COMPOSE` (R100). -/
def execCompose (pdpx pdx ptx pgoff : Word) (s : State) : Host.Outcome State Fault Refusal :=
  answer s (onY0 (composeAddress pdpx pdx ptx pgoff))

end Sys2Proof.Machine
end

