-- ==== Sys2Proof/Machine/Decomposer.lean ====
section
/-! DEFINITION. The address decomposer (40_address_decomposer.md): `DECOMP` and `FRAMENO`. -/

namespace Sys2Proof.Machine

/-- R90: the source's `decompose(la) → (pdpx, pdx, ptx, pgoff)`. -/
def decompose (la : Word) : Response := ⟨pdpxOf la, pdxOf la, ptxOf la, pgoffOf la⟩

/-- R91: the source's `frame_number(la) → ppn`. -/
def frameNumber (la : Word) : Word := pageNumber la

/-- `DECOMP` (R90). Bits 63:39 of `la` are read by no field (R42). -/
def execDecomp (la : Word) (s : State) : Host.Outcome State Fault Refusal := answer s (decompose la)

/-- `FRAMENO` (R91). Bits 63:39 of `la` are kept. -/
def execFrameno (la : Word) (s : State) : Host.Outcome State Fault Refusal := answer s (onY0 (frameNumber la))

end Sys2Proof.Machine
end

