-- ==== Sys2Proof/Machine/Flags.lean ====
section
/-! DEFINITION. The flags of a page-table entry (R46 to R50, R130) and the three meanings of an entry (R54). They are
fields of a data word: the block has no status flag, and no operation leaves one behind (R22). -/

namespace Sys2Proof.Machine

/-- The ten flags of the flag region (R130). -/
inductive PteFlag where
  /-- "Valid — entry is usable" (R46) -/
  | V
  /-- "Readable" (R47) -/
  | R
  /-- "Writable" (R47) -/
  | W
  /-- "Executable" (R47) -/
  | X
  /-- "User-mode accessible" (R48) -/
  | U
  /-- "Global (not flushed on address-space switch)" (R48) -/
  | G
  /-- "Accessed", set by whoever makes the reference, never by the block (R49) -/
  | A
  /-- "Dirty (set on write)", never set by the block (R49) -/
  | D
  /-- software bookkeeping, low bit (R50; the name is decision D20) -/
  | SOFT0
  /-- software bookkeeping, high bit (R50; the name is decision D20) -/
  | SOFT1
deriving DecidableEq, Repr

/-- R45, R130: the bit of a flag. -/
def PteFlag.bit : PteFlag → Nat
  | .V => 0
  | .R => 1
  | .W => 2
  | .X => 3
  | .U => 4
  | .G => 5
  | .A => 6
  | .D => 7
  | .SOFT0 => 8
  | .SOFT1 => 9

/-- R130: the value with only that flag's bit set. -/
def PteFlag.mask (f : PteFlag) : Word := shl 1#64 f.bit

/-- R134: a flag set, the OR of the masks; the caller computes it, not the block. -/
def flagSet (fs : List PteFlag) : Word := fs.foldl (fun v f => v ||| f.mask) 0#64

/-- R112: the 64-bit AND, OR-reduced. For one bit it is that bit; for any other mask the formula is the spec's decision
D9: notes/assumptions/6. -/
def anyBitOf (pte mask : Word) : Bool := pte &&& mask != 0#64

/-- The three meanings of an entry (R54; three, not two: conflict C2). -/
inductive PteKind where
  | INVALID | POINTER | LEAF
deriving DecidableEq, Repr

/-- R54: `classify`. The block offers no such operation; a caller builds it from two requests (R117). -/
def classify (pte : Word) : PteKind :=
  if !pte.getLsbD 0 then .INVALID
  else if pte.extractLsb' 1 3 == 0#3 then .POINTER
  else .LEAF

end Sys2Proof.Machine
end

