-- ==== Sys2Proof/Machine/PermTable.lean ====
section
/-! DEFINITION. The permission-class constant table (43_permission_table.md): `PERMCLS`. -/

namespace Sys2Proof.Machine

/-- The seven permission classes of R131. -/
inductive PermClass where
  | POINTER | READ_ONLY | READ_WRITE | EXEC_ONLY | READ_EXEC | READ_WRITE_EXEC | USER_DEFAULT
deriving DecidableEq, Repr

/-- R131: the source's column "bits set". -/
def PermClass.flags : PermClass → List PteFlag
  | .POINTER => [.V]
  | .READ_ONLY => [.R, .V]
  | .READ_WRITE => [.R, .W, .V]
  | .EXEC_ONLY => [.X, .V]
  | .READ_EXEC => [.R, .X, .V]
  | .READ_WRITE_EXEC => [.R, .W, .X, .V]
  | .USER_DEFAULT => [.R, .W, .X, .U, .V]

/-- R131: the value of a class, the OR of the masks of its flags. -/
def PermClass.bits (k : PermClass) : Word := flagSet k.flags

/-- R76, decision D10: the index of a class, its row in the source's table. -/
def PermClass.index : PermClass → ClassIndex
  | .POINTER => 0#3
  | .READ_ONLY => 1#3
  | .READ_WRITE => 2#3
  | .EXEC_ONLY => 3#3
  | .READ_EXEC => 4#3
  | .READ_WRITE_EXEC => 5#3
  | .USER_DEFAULT => 6#3

/-- The table's rows in the source's order (R131). -/
def classTable : List PermClass :=
  [.POINTER, .READ_ONLY, .READ_WRITE, .EXEC_ONLY, .READ_EXEC, .READ_WRITE_EXEC, .USER_DEFAULT]

/-- R76: the class an index selects; index 7 selects none (R75). -/
def PermClass.ofIndex (k : ClassIndex) : Option PermClass := classTable[k.toNat]?

/-- R132: the row an index selects; for the reserved index 7 the value of decision D10 (notes/assumptions/8). -/
def classBits (k : ClassIndex) : Word :=
  match PermClass.ofIndex k with
  | some c => c.bits
  | none => Config.reservedClassBits

/-- `PERMCLS` (R132). -/
def execPermcls (k : ClassIndex) (s : State) : Host.Outcome State Fault Refusal := answer s (onY0 (classBits k))

end Sys2Proof.Machine
end

