-- ==== Sys2Proof/Machine/PteCodec.lean ====
section
/-! DEFINITION. The PTE codec (42_pte_codec.md): `PTEBUILD`, `PTEADDR`, `PTEFLAG`, `PTELEAF`. -/

namespace Sys2Proof.Machine

/-- R110: the source's `build_pte(frame_base_address, permission_class) → pte`. The right shift drops the low 12 bits of
an unaligned address (conflict C4, decision D12: notes/assumptions/3); neither operand is masked (H4, H5). -/
def buildPte (frameBase permClass : Word) : Word := toPpnField (pageNumber frameBase) ||| permClass

/-- R111: the source's `extract_frame_address(pte) → address`. -/
def extractFrameAddress (pte : Word) : Word := frameAddressWith Config.PPN_FIELD_MASK pte

/-- R112: the source's `has_flag(pte, flag_bit) → bool`. -/
def hasFlag (pte flagBit : Word) : Bool := anyBitOf pte flagBit

/-- R113: the source's `is_leaf(pte) → bool`; V is not consulted. -/
def isLeaf (pte : Word) : Bool := anyBitOf pte Config.PTE_RWX_MASK

/-- `PTEBUILD` (R110). -/
def execPtebuild (frameBase permClass : Word) (s : State) : Host.Outcome State Fault Refusal :=
  answer s (onY0 (buildPte frameBase permClass))

/-- `PTEADDR` (R111), for V = 0 too (R164). -/
def execPteaddr (pte : Word) (s : State) : Host.Outcome State Fault Refusal :=
  answer s (onY0 (extractFrameAddress pte))

/-- `PTEFLAG` (R112), for V = 0 too (R164). -/
def execPteflag (pte flagBit : Word) (s : State) : Host.Outcome State Fault Refusal :=
  answer s (onY0 (boolWord (hasFlag pte flagBit)))

/-- `PTELEAF` (R113), for V = 0 too (R164). -/
def execPteleaf (pte : Word) (s : State) : Host.Outcome State Fault Refusal :=
  answer s (onY0 (boolWord (isLeaf pte)))

end Sys2Proof.Machine
end

