-- ==== Sys2Proof/Machine/Dispatch.lean ====
section
/-! DEFINITION. The meaning of each operation of R72, one arm a constructor. -/

namespace Sys2Proof.Machine

def exec (i : Instr) (s : State) : Host.Outcome State Fault Refusal :=
  match i with
  | .decomp la => Sys2Proof.Machine.execDecomp la s
  | .compose pdpx pdx ptx pgoff => Sys2Proof.Machine.execCompose pdpx pdx ptx pgoff s
  | .frameno la => Sys2Proof.Machine.execFrameno la s
  | .ptebuild frameBase permClass => Sys2Proof.Machine.execPtebuild frameBase permClass s
  | .pteaddr pte => Sys2Proof.Machine.execPteaddr pte s
  | .pteflag pte flagBit => Sys2Proof.Machine.execPteflag pte flagBit s
  | .pteleaf pte => Sys2Proof.Machine.execPteleaf pte s
  | .permcls classIndex => Sys2Proof.Machine.execPermcls classIndex s

end Sys2Proof.Machine
end

