-- ==== Sys2Proof/Machine/Step.lean ====
section
/-! DEFINITION. One step: one evaluation of the block (R27, R170), and the placing of a request on its ports. -/

namespace Sys2Proof.Machine

/-- One evaluation: the request on the input ports is decoded and its operation's response is driven on the output ports.
A reserved code is refused by name (R75, U1). -/
def step (s : State) : Host.Outcome State Fault Refusal :=
  match decode s.req with
  | .instr i => exec i s
  | .reserved op => .refused (.reservedOp op)

/-- The caller drives the request of an opcode-table word on the input ports. The block fetches nothing (R21): what a step
runs is what the ports carry, so this is the whole of "placing an instruction" (notes/assumptions/9). -/
def State.withFetchWord (s : State) (nbits w : Nat) : State := s.issue (tableRequest nbits w)

end Sys2Proof.Machine
end

