-- ==== Sys2Proof/Machine/Text.lean ====
section
/-! DEFINITION. The textual form of requests (R79, decision D18): an operation's mnemonic, its operands in port order, and
the names its results are given; how a line is read from characters and how it is spelled. The names of flags and classes
stand for constants; there are no pseudo-operations (R80). The text is the caller's: the block sees the request alone. -/

namespace Sys2Proof.Machine

/-- R72: the mnemonics. -/
def mnemonicOf : Opcode → String
  | .DECOMP => "DECOMP"
  | .COMPOSE => "COMPOSE"
  | .FRAMENO => "FRAMENO"
  | .PTEBUILD => "PTEBUILD"
  | .PTEADDR => "PTEADDR"
  | .PTEFLAG => "PTEFLAG"
  | .PTELEAF => "PTELEAF"
  | .PERMCLS => "PERMCLS"

/-- R73, R79: how many operands an operation is written with. -/
def operandCount : Opcode → Nat
  | .DECOMP => 1
  | .COMPOSE => 4
  | .FRAMENO => 1
  | .PTEBUILD => 2
  | .PTEADDR => 1
  | .PTEFLAG => 2
  | .PTELEAF => 1
  | .PERMCLS => 1

/-- R79: the result names of the spec's own listing, in result-port order. A caller may choose others. -/
def resultNames : Opcode → List String
  | .DECOMP => ["pdpx", "pdx", "ptx", "pgoff"]
  | .COMPOSE => ["la"]
  | .FRAMENO => ["ppn"]
  | .PTEBUILD => ["pte"]
  | .PTEADDR => ["address"]
  | .PTEFLAG => ["flag_is_set"]
  | .PTELEAF => ["leaf"]
  | .PERMCLS => ["bits"]

/-- R74, R79: how many results an operation has. -/
def resultCount (o : Opcode) : Nat := (resultNames o).length

/-- One written operand (R79). -/
inductive OperandText where
  /-- a number -/
  | number (w : Word)
  /-- flag names with `|` between them, an OR the writer evaluates -/
  | flags (fs : List PteFlag)
  /-- a class name: the index as operand of `PERMCLS`, the flag value as operand of `PTEBUILD` -/
  | className (k : PermClass)
  /-- the name of a result of an earlier request -/
  | resultName (n : String)
deriving DecidableEq, Repr

/-- The values the caller holds under result names, latest first. -/
abbrev Env := List (String × Word)

/-- R79: the value a written operand stands for; none for an unknown name and for a class name where R79 gives it no
value. -/
def OperandText.value (env : Env) (o : Opcode) : OperandText → Option Word
  | .number w => some w
  | .flags fs => some (flagSet fs)
  | .className k =>
    match o with
    | .PERMCLS => some (k.index.setWidth 64)
    | .PTEBUILD => some k.bits
    | _ => none
  | .resultName n => env.lookup n

/-- One written request without its result names. -/
structure RequestText where
  opcode : Opcode
  operands : List OperandText
deriving DecidableEq, Repr

/-- The values of all operands, none if one has none. -/
def operandValues (env : Env) (o : Opcode) : List OperandText → Option (List Word)
  | [] => some []
  | t :: ts =>
    match t.value env o, operandValues env o ts with
    | some v, some vs => some (v :: vs)
    | _, _ => none

/-- The request a text stands for: operands on the ports in order, unused ports given as 0 (R73, R79); none where the
number of operands is not the operation's. -/
def assemble (env : Env) (t : RequestText) : Option Request :=
  match operandValues env t.opcode t.operands with
  | none => none
  | some vs =>
    if vs.length = operandCount t.opcode then
      some ⟨t.opcode.code, vs[0]?.getD 0#64, vs[1]?.getD 0#64, vs[2]?.getD 0#64, vs[3]?.getD 0#64⟩
    else none

/-- An instruction written with numbers only. -/
def textOf : Instr → RequestText
  | .decomp la => ⟨.DECOMP, [.number la]⟩
  | .compose p d t o => ⟨.COMPOSE, [.number p, .number d, .number t, .number o]⟩
  | .frameno la => ⟨.FRAMENO, [.number la]⟩
  | .ptebuild f c => ⟨.PTEBUILD, [.number f, .number c]⟩
  | .pteaddr e => ⟨.PTEADDR, [.number e]⟩
  | .pteflag e b => ⟨.PTEFLAG, [.number e, .number b]⟩
  | .pteleaf e => ⟨.PTELEAF, [.number e]⟩
  | .permcls k => ⟨.PERMCLS, [.number (k.setWidth 64)]⟩

/-- One line of a listing (R79): result names in result-port order, then the request. -/
structure Line where
  results : List String
  request : RequestText
deriving DecidableEq, Repr

/-- The caller works through a listing (95_test_vectors.md section 3): each request is driven on the ports and its results
are kept under their names. None where a line cannot be read or is refused.
DESIGN CHOICE (notes/assumptions/14): R79 is silent on a name given twice. A name given again in a later line hides the
earlier value; a name given twice in one line, `(p, p, t, o) = DECOMP x`, stands for the lower result port's value. -/
def runListing (s : State) (env : Env) : List Line → Option Env
  | [] => some env
  | ln :: rest =>
    if ln.results.length = resultCount ln.request.opcode then
      match assemble env ln.request with
      | none => none
      | some r =>
        match step (s.issue r) with
        | .next t => runListing t (ln.results.zip [t.resp.y0, t.resp.y1, t.resp.y2, t.resp.y3] ++ env) rest
        | .fault f => nomatch f
        | .refused _ => none
    else none

/-! The spelling (R79): how a line, a request's encoding and a response are written. -/

/-- A number in C style, hexadecimal. -/
def hex (n : Nat) : String := "0x" ++ String.ofList ((Nat.toDigits 16 n).map Char.toUpper)

/-- R79, R130: the name of a flag. -/
def flagName : PteFlag → String
  | .V => "V"
  | .R => "R"
  | .W => "W"
  | .X => "X"
  | .U => "U"
  | .G => "G"
  | .A => "A"
  | .D => "D"
  | .SOFT0 => "SOFT0"
  | .SOFT1 => "SOFT1"

/-- R79, R131: the name of a class. -/
def classNameText : PermClass → String
  | .POINTER => "POINTER"
  | .READ_ONLY => "READ_ONLY"
  | .READ_WRITE => "READ_WRITE"
  | .EXEC_ONLY => "EXEC_ONLY"
  | .READ_EXEC => "READ_EXEC"
  | .READ_WRITE_EXEC => "READ_WRITE_EXEC"
  | .USER_DEFAULT => "USER_DEFAULT"

/-- An operand as written. The empty flag set is the number 0. -/
def OperandText.spelled : OperandText → String
  | .number w => hex w.toNat
  | .flags [] => hex 0
  | .flags (f :: fs) => " | ".intercalate ((f :: fs).map flagName)
  | .className k => classNameText k
  | .resultName n => n

/-- The results of a line as written: in parentheses when more than one. -/
def resultsSpelled : List String → String
  | [r] => r
  | rs => "(" ++ ", ".intercalate rs ++ ")"

/-- A line as written: the results, `=`, the mnemonic, the operands separated by commas. -/
def Line.spelled (ln : Line) : String :=
  resultsSpelled ln.results ++ " = " ++ mnemonicOf ln.request.opcode ++ " " ++
    ", ".intercalate (ln.request.operands.map OperandText.spelled)

/-- The encoding of a request as written, ports without an operand omitted. -/
def encodingSpelled (i : Instr) : String :=
  let r := encode i
  let ports := [" a=" ++ hex r.a.toNat, " b=" ++ hex r.b.toNat, " c=" ++ hex r.c.toNat, " d=" ++ hex r.d.toNat]
  "op=" ++ hex r.op.toNat ++ "".intercalate (ports.take (operandCount i.opcode))

/-- A response as written, port by port. -/
def responseSpelled (o : Opcode) (y : Response) : String :=
  let ports := ["y0=" ++ hex y.y0.toNat, "y1=" ++ hex y.y1.toNat, "y2=" ++ hex y.y2.toNat, "y3=" ++ hex y.y3.toNat]
  " ".intercalate (ports.take (resultCount o))

/-! Reading a line (R79; numbers R15). What R79 leaves to the reader of a text is in notes/assumptions/14. -/

/-- The words and marks a line is made of. -/
inductive Token where
  | word (cs : List Char)
  | number (n : Nat)
  | comma | bar | equals | open | close
deriving DecidableEq, Repr

/-- The value of a digit in a base, none for another character. -/
def digitValue (base : Nat) (c : Char) : Option Nat :=
  let v := if c.isDigit then some (c.toNat - 48)
    else if 97 ≤ c.toNat ∧ c.toNat ≤ 102 then some (c.toNat - 87)
    else if 65 ≤ c.toNat ∧ c.toNat ≤ 70 then some (c.toNat - 55)
    else none
  v.filter (· < base)

/-- The number a list of digits writes. An underscore only groups digits; R15 says so of one inside a hexadecimal literal.
DESIGN CHOICE (notes/assumptions/14): it is ignored wherever it stands after the first character of a number, in a decimal
number too (`12_3` is 123), and digits that are underscores only write 0 (`0x_` is 0). -/
def digitsValue (base : Nat) : List Char → Nat → Option Nat
  | [], n => some n
  | c :: cs, n => if c = '_' then digitsValue base cs n else
    match digitValue base c with
    | some v => digitsValue base cs (base * n + v)
    | none => none

/-- R15: a number is decimal, or hexadecimal with the prefix `0x`; a word begins with no digit. -/
def tokenOf (cs : List Char) : Option Token :=
  match cs with
  | '0' :: 'x' :: c :: rest => (digitsValue 16 (c :: rest) 0).map .number
  | c :: rest => if c.isDigit then (digitsValue 10 (c :: rest) 0).map .number else some (.word (c :: rest))
  | [] => none

/-- The mark a character is, none for another. -/
def markOf (c : Char) : Option Token :=
  if c = ',' then some .comma
  else if c = '|' then some .bar
  else if c = '=' then some .equals
  else if c = '(' then some .open
  else if c = ')' then some .close
  else none

/-- Put the word collected so far (its characters reversed) before the tokens that follow it. -/
def closeWord (collected : List Char) (rest : List Token) : Option (List Token) :=
  match collected with
  | [] => some rest
  | c :: cs => (tokenOf (c :: cs).reverse).map (· :: rest)

/-- The tokens of a text; white space only separates. None for a character that no line has. -/
def tokens : List Char → List Char → Option (List Token)
  | [], collected => closeWord collected []
  | c :: cs, collected =>
    if c.isAlphanum || c = '_' then tokens cs (c :: collected)
    else
      match tokens cs [] with
      | none => none
      | some rest =>
        if c.isWhitespace then closeWord collected rest
        else
          match markOf c with
          | some m => closeWord collected (m :: rest)
          | none => none

/-- The pieces of a list of tokens between the marks `sep`. -/
def piecesBetween (sep : Token) : List Token → List (List Token)
  | [] => [[]]
  | t :: ts =>
    match piecesBetween sep ts with
    | [] => [[t]]
    | p :: ps => if t = sep then [] :: p :: ps else (t :: p) :: ps

/-- All results of a partial function over a list, none if one is none. -/
def allOf {α β : Type} (f : α → Option β) : List α → Option (List β)
  | [] => some []
  | x :: xs =>
    match f x, allOf f xs with
    | some y, some ys => some (y :: ys)
    | _, _ => none

/-- The ten flag names with the flags they name. -/
def flagOfName (cs : List Char) : Option PteFlag :=
  [PteFlag.V, .R, .W, .X, .U, .G, .A, .D, .SOFT0, .SOFT1].find? fun f => (flagName f).toList == cs

def classOfName (cs : List Char) : Option PermClass := classTable.find? fun k => (classNameText k).toList == cs

def opcodeOfName (cs : List Char) : Option Opcode :=
  (opcodeTable.map OpRow.opcode).find? fun o => (mnemonicOf o).toList == cs

/-- A piece that is one word. -/
def wordOf : List Token → Option (List Char)
  | [.word cs] => some cs
  | _ => none

/-- An operand: a number of at most 64 bits, flag names with `|` between them, a class name, or a result name (R79).
DESIGN CHOICE (notes/assumptions/14): a word that is a flag's or a class's name is read as that before it is read as a
result name, and `|` joins flag names only. -/
def operandOf (p : List Token) : Option OperandText :=
  match p with
  | [.number n] => if n < 2 ^ 64 then some (.number (BitVec.ofNat 64 n)) else none
  | [.word cs] =>
    match flagOfName cs, classOfName cs with
    | some f, _ => some (.flags [f])
    | none, some k => some (.className k)
    | none, none => some (.resultName (String.ofList cs))
  | p => ((allOf wordOf (piecesBetween .bar p)).bind (allOf flagOfName)).map .flags

/-- The result names of a line: one, or several in parentheses (R79).
DESIGN CHOICE (notes/assumptions/14): a single name in parentheses, `(x) = PTEADDR y`, is read as that one result; R79 gives
parentheses only when there is more than one. Any word may name a result. -/
def resultsOf (p : List Token) : Option (List String) :=
  match p with
  | [.word cs] => some [String.ofList cs]
  | .open :: rest =>
    match rest.reverse with
    | .close :: names => (allOf wordOf (piecesBetween .comma names.reverse)).map (·.map String.ofList)
    | _ => none
  | _ => none

/-- A line read from its characters: results, `=`, mnemonic, operands separated by commas. -/
def readLine (text : String) : Option Line :=
  match (tokens text.toList []).map (piecesBetween .equals) with
  | some [left, .word m :: right] =>
    match resultsOf left, opcodeOfName m, allOf operandOf (piecesBetween .comma right) with
    | some rs, some o, some ts => some ⟨rs, ⟨o, ts⟩⟩
    | _, _, _ => none
  | _ => none

/-- A listing read line by line and worked through (95_test_vectors.md section 3). -/
def runText (s : State) (env : Env) (lines : List String) : Option Env :=
  (allOf readLine lines).bind (runListing s env)

end Sys2Proof.Machine
end

