-- ==== Sys2Proof/Machine/Eval.lean ====
section
/-! DEFINITION. The block as the function R27 says it is, `eval : Request -> Response`, total on all requests (R81), and
the caller's runs of requests (R170, R171). -/

namespace Sys2Proof.Machine

/-- R27: the outputs as a function of the inputs and nothing else. For a reserved code it is the spec's decision D5, all
outputs zero (R75, notes/assumptions/7); `step` refuses such a request, as the spec asks of a model. -/
def eval (r : Request) : Response :=
  match decode r with
  | .instr i =>
    match exec i ⟨r, Config.reservedOpResponse⟩ with
    | .next t => t.resp
    | .fault f => nomatch f
    | .refused _ => Config.reservedOpResponse
  | .reserved _ => Config.reservedOpResponse

/-- A run of the caller (R170): it drives one request after another on the ports of one block and reads the answer to
each. The block keeps only what stands on its ports. -/
def answersTo (s : State) : List Request → List (Option Response)
  | [] => []
  | r :: rs =>
    match step (s.issue r) with
    | .next t => some t.resp :: answersTo t rs
    | .fault f => nomatch f
    | .refused _ => none :: answersTo (s.issue r) rs

/-- The same over any number of instances of the block (R30, R169): each request names the instance it is driven on.
A request to an instance that is not there has no answer. -/
def answersOnInstances (blocks : List State) : List (Nat × Request) → List (Option Response)
  | [] => []
  | (k, r) :: rest =>
    match blocks[k]? with
    | none => none :: answersOnInstances blocks rest
    | some s =>
      match step (s.issue r) with
      | .next t => some t.resp :: answersOnInstances (blocks.set k t) rest
      | .fault f => nomatch f
      | .refused _ => none :: answersOnInstances (blocks.set k (s.issue r)) rest

end Sys2Proof.Machine
end

