-- ==== Sys2Proof/Safety.lean ====
section
/-! DEFINITION. What claims mean by a good state and a safe run of the block. The block is never in a bad state (R171);
these are the terms in which claims speak of its ports and of the caller's duties. -/

namespace Sys2Proof.Machine

/-- R27: the output ports carry the function of the input ports. -/
def Settled (s : State) : Prop := s.resp = eval s.req

/-- R74: the widths of the results on each result port, and zero on the ports an operation does not use (R26). For
`PTEADDR` the frame address is page-aligned and below 2^56 (R111). -/
def ResponseFits (op : Op) (y : Response) : Prop :=
  match Opcode.ofOp op with
  | some .DECOMP => y.y0.toNat < 512 ∧ y.y1.toNat < 512 ∧ y.y2.toNat < 512 ∧ y.y3.toNat < 4096
  | some .COMPOSE => y.y1 = 0#64 ∧ y.y2 = 0#64 ∧ y.y3 = 0#64
  | some .FRAMENO => y.y0.toNat < 2 ^ 52 ∧ y.y1 = 0#64 ∧ y.y2 = 0#64 ∧ y.y3 = 0#64
  | some .PTEBUILD => y.y1 = 0#64 ∧ y.y2 = 0#64 ∧ y.y3 = 0#64
  | some .PTEADDR =>
    y.y0.toNat < 2 ^ 56 ∧ y.y0.toNat % 4096 = 0 ∧ y.y1 = 0#64 ∧ y.y2 = 0#64 ∧ y.y3 = 0#64
  | some .PTEFLAG => (y.y0 = 0#64 ∨ y.y0 = 1#64) ∧ y.y1 = 0#64 ∧ y.y2 = 0#64 ∧ y.y3 = 0#64
  | some .PTELEAF => (y.y0 = 0#64 ∨ y.y0 = 1#64) ∧ y.y1 = 0#64 ∧ y.y2 = 0#64 ∧ y.y3 = 0#64
  | some .PERMCLS => y.y0.toNat < 2 ^ 10 ∧ y.y1 = 0#64 ∧ y.y2 = 0#64 ∧ y.y3 = 0#64
  | none => True

/-- R42: the canonical form of a linear address, bits 63:39 all equal to bit 38. The block neither requires nor produces
it (R166). -/
def canonical (la : Word) : Bool := la == (la.setWidth 39).signExtend 64

/-- The caller keeps its duties in a request (70_reset_and_hazards.md section 3): no reserved code, and every
precondition of the operation met. -/
def safeRequest (r : Request) : Bool :=
  match decode r with
  | .instr i => i.inContract
  | .reserved _ => false

/-- A safe run: the caller keeps its duties throughout. -/
def safeRun (rs : List Request) : Bool := rs.all safeRequest

end Sys2Proof.Machine
end

