-- ==== Sys2Proof/Certificates/Slice0/Obligations.lean ====
section
/-! DEFINITION. What is stated of the model, from the numbered rules of spec/. A next state written out in full, as
`.next { s with resp := … }`, states the frame too: the input ports are left as they were and nothing but the four
output ports changes; the block has no register, flag, memory or program counter that could change (R20 to R23). -/

open Sys2Proof Sys2Proof.Machine

/-! Results of the eight operations. -/

/-- R90: `DECOMP`, as an operation and from the ports: operands `b`, `c`, `d` are ignored and nothing is raised. The
code `0x0` and the ports are the spec's decisions D3, D4. -/
def Obligations.DecompAnswersItsFourFields : Prop :=
  (∀ (la : Word) (s : State),
    exec (.decomp la) s = .next { s with resp :=
      ⟨(la >>> 30) &&& 0x1FF#64, (la >>> 21) &&& 0x1FF#64, (la >>> 12) &&& 0x1FF#64, la &&& 0xFFF#64⟩ }) ∧
  (∀ (a b c d : Word) (s : State),
    step (s.issue ⟨0x0#4, a, b, c, d⟩) = .next ⟨⟨0x0#4, a, b, c, d⟩,
      ⟨(a >>> 30) &&& 0x1FF#64, (a >>> 21) &&& 0x1FF#64, (a >>> 12) &&& 0x1FF#64, a &&& 0xFFF#64⟩⟩)

/-- R91: `FRAMENO`, as an operation and from the ports. The code `0x2` and the ports are the spec's decisions D3, D4. -/
def Obligations.FramenoAnswersThePageNumber : Prop :=
  (∀ (la : Word) (s : State),
    exec (.frameno la) s = .next { s with resp := ⟨la >>> 12, 0#64, 0#64, 0#64⟩ }) ∧
  (∀ (a b c d : Word) (s : State),
    step (s.issue ⟨0x2#4, a, b, c, d⟩) = .next ⟨⟨0x2#4, a, b, c, d⟩, ⟨a >>> 12, 0#64, 0#64, 0#64⟩⟩)

/-- `COMPOSE` (41_address_composer.md): the OR of the shifted operands. The truncation at bit 63 is the spec's decision D7
(notes/assumptions/4), the code and the ports D3, D4. -/
def Obligations.ComposeAnswersTheOrOfShiftedFields : Prop :=
  (∀ (p d t o : Word) (s : State),
    exec (.compose p d t o) s = .next { s with resp :=
      ⟨(p <<< 30) ||| (d <<< 21) ||| (t <<< 12) ||| o, 0#64, 0#64, 0#64⟩ }) ∧
  (∀ (a b c d : Word) (s : State),
    step (s.issue ⟨0x1#4, a, b, c, d⟩) = .next ⟨⟨0x1#4, a, b, c, d⟩,
      ⟨(a <<< 30) ||| (b <<< 21) ||| (c <<< 12) ||| d, 0#64, 0#64, 0#64⟩⟩)

/-- `PTEBUILD` (42_pte_codec.md): the output formula, for every operand. On an unaligned address the formula is the spec's
decision D12 against the source's prose (conflict C4, notes/assumptions/3); on an aligned one both agree. -/
def Obligations.PtebuildPacksPageNumberAndFlags : Prop :=
  (∀ (f c : Word) (s : State),
    exec (.ptebuild f c) s = .next { s with resp := ⟨((f >>> 12) <<< 10) ||| c, 0#64, 0#64, 0#64⟩ }) ∧
  (∀ (a b c d : Word) (s : State),
    step (s.issue ⟨0x3#4, a, b, c, d⟩) = .next ⟨⟨0x3#4, a, b, c, d⟩,
      ⟨((a >>> 12) <<< 10) ||| b, 0#64, 0#64, 0#64⟩⟩)

/-- `PTEADDR` (42_pte_codec.md), for every entry, V set or not. The mask is the spec's decision D8
(notes/assumptions/5); `PteaddrNeedsNoChoiceOfMask` says where it does not matter. -/
def Obligations.PteaddrMasksAndRescales : Prop :=
  (∀ (e : Word) (s : State),
    exec (.pteaddr e) s = .next { s with resp := ⟨(e &&& 0x003FFFFFFFFFFC00#64) <<< 2, 0#64, 0#64, 0#64⟩ }) ∧
  (∀ (a b c d : Word) (s : State),
    step (s.issue ⟨0x4#4, a, b, c, d⟩) = .next ⟨⟨0x4#4, a, b, c, d⟩,
      ⟨(a &&& 0x003FFFFFFFFFFC00#64) <<< 2, 0#64, 0#64, 0#64⟩⟩)

/-- `PTEFLAG` (42_pte_codec.md), for every mask: 1 when the AND is not zero. The mask form, and the result for a mask that
is not a single flag, are the spec's decision D9 (notes/assumptions/6). -/
def Obligations.PteflagTestsTheAndOfEntryAndMask : Prop :=
  (∀ (e b : Word) (s : State),
    exec (.pteflag e b) s =
      .next { s with resp := ⟨if e &&& b = 0#64 then 0#64 else 1#64, 0#64, 0#64, 0#64⟩ }) ∧
  (∀ (a b c d : Word) (s : State),
    step (s.issue ⟨0x5#4, a, b, c, d⟩) = .next ⟨⟨0x5#4, a, b, c, d⟩,
      ⟨if a &&& b = 0#64 then 0#64 else 1#64, 0#64, 0#64, 0#64⟩⟩)

/-- R113: `PTELEAF`, as an operation and from the ports; V is not consulted. The code `0x6` and the ports are the spec's
decisions D3, D4. -/
def Obligations.PteleafReportsReadWriteExecute : Prop :=
  (∀ (e : Word) (s : State),
    exec (.pteleaf e) s =
      .next { s with resp := ⟨if e &&& 0x00E#64 = 0#64 then 0#64 else 1#64, 0#64, 0#64, 0#64⟩ }) ∧
  (∀ (a b c d : Word) (s : State),
    step (s.issue ⟨0x6#4, a, b, c, d⟩) = .next ⟨⟨0x6#4, a, b, c, d⟩,
      ⟨if a &&& 0x00E#64 = 0#64 then 0#64 else 1#64, 0#64, 0#64, 0#64⟩⟩)

/-- `PERMCLS` (43_permission_table.md): the row `a[2:0]` selects, for every index. The index and the zero of the reserved
index 7 are the spec's decision D10 (notes/assumptions/8). -/
def Obligations.PermclsReadsTheClassTable : Prop :=
  (∀ (k : ClassIndex) (s : State),
    exec (.permcls k) s = .next { s with resp :=
      ⟨[0x001#64, 0x003#64, 0x007#64, 0x009#64, 0x00B#64, 0x00F#64, 0x01F#64, 0x000#64].getD k.toNat 0#64,
       0#64, 0#64, 0#64⟩ }) ∧
  (∀ (a b c d : Word) (s : State),
    step (s.issue ⟨0x7#4, a, b, c, d⟩) = .next ⟨⟨0x7#4, a, b, c, d⟩,
      ⟨[0x001#64, 0x003#64, 0x007#64, 0x009#64, 0x00B#64, 0x00F#64, 0x01F#64, 0x000#64].getD (a.toNat % 8) 0#64,
       0#64, 0#64, 0#64⟩⟩)

/-! The machine as a whole. -/

/-- A step evaluates the request on the ports: it is the decoded instruction's `exec`, with nothing around it; and placing
an opcode-table word on the ports makes the next step run the instruction it decodes to. The second clause is the model's
choice (notes/assumptions/9): the block fetches nothing, and the spec numbers no operand bits in a table word. -/
def Obligations.StepRunsTheDecodedInstruction : Prop :=
  (∀ (s : State) (i : Instr), decode s.req = .instr i → step s = exec i s) ∧
  (∀ (s : State) (nbits w : Nat) (i : Instr), decodeTableWord nbits w = some i →
    step (s.withFetchWord nbits w) = exec i (s.withFetchWord nbits w))

/-- Codes `0x8` to `0xF` (30_encoding.md): the model refuses them by name, as the spec asks of a model (U1), while the
block's own outputs would be zero by the spec's decision D5 (notes/assumptions/7). -/
def Obligations.ReservedCodesAreRefusedByName : Prop :=
  ∀ (r : Request) (s : State), 8 ≤ r.op.toNat →
    step (s.issue r) = .refused (.reservedOp r.op) ∧ eval r = ⟨0#64, 0#64, 0#64, 0#64⟩

/-- The decoder is total and the code alone decides (30_encoding.md): codes below 8 select an operation whatever the
operands, the others are reserved. -/
def Obligations.CodeAloneDecidesWhetherRequestIsReserved : Prop :=
  ∀ r : Request,
    (r.op.toNat < 8 → ∃ i, decode r = .instr i ∧ i.opcode.code = r.op) ∧
    (8 ≤ r.op.toNat → decode r = .reserved r.op)

/-- 60_exceptions.md: no step ends in a fault; every operation answers a next state for every operand and every state; and
the one refusal a step can end in is that of a reserved code. That the model refuses the reserved codes (notes/assumptions/7)
and refuses no operand, not class index 7 (notes/assumptions/8) nor one out of contract (notes/assumptions/13), are the
model's choices: the spec lets a model refuse more. -/
def Obligations.NoStepFaultsAndEveryOperationAnswers : Prop :=
  (∀ (s : State) (f : Fault), step s ≠ .fault f) ∧
  (∀ i : Instr, ∃ y : Response, ∀ s : State, exec i s = .next { s with resp := y }) ∧
  (∀ (s : State) (ρ : Refusal), step s = .refused ρ → 8 ≤ s.req.op.toNat ∧ ρ = .reservedOp s.req.op)

/-- R27: what a step answers is the function `eval` of the request on the ports and of nothing else: two blocks with the same
request answer the same response, nothing but the output levels changes, and the same request gets the same answer whatever
requests came before it. -/
def Obligations.ResponseDependsOnTheRequestAlone : Prop :=
  (∀ s t : State, step s = .next t → t = { s with resp := eval s.req }) ∧
  (∀ s s' t : State, s.req = s'.req → step s = .next t → step s' = .next { s' with resp := t.resp }) ∧
  (∀ (s s' : State) (before before' : List Request) (r : Request),
    (answersTo s (before ++ [r])).getLast? = (answersTo s' (before' ++ [r])).getLast?)

/-- 10_state.md, instances and sharing: requests driven on any number of instances of the block, in any order, get the
answers that the same requests get each alone on one block `one`; another order, on other blocks, gives the same answers in
that order. That simultaneous evaluations are a sequence of evaluations is the model's reading (notes/assumptions/15), and
that a reserved code has no answer is its choice (notes/assumptions/7). -/
def Obligations.InstancesAnswerAsIndependentEvaluations : Prop :=
  ∀ (one : State) (blocks blocks' : List State) (q q' : List (Nat × Request)),
    (∀ x ∈ q, x.1 < blocks.length) → (∀ x ∈ q', x.1 < blocks'.length) →
    (q.map Prod.snd).Perm (q'.map Prod.snd) →
    answersOnInstances blocks q = q.flatMap (fun x => answersTo one [x.2]) ∧
    (answersOnInstances blocks q).Perm (answersOnInstances blocks' q')

/-- 10_state.md, unused ports (decision D6): two requests that agree in every operand bit their operation uses are answered
alike, from any two states. -/
def Obligations.IgnoredOperandBitsChangeNothing : Prop :=
  ∀ (r r' : Request) (s s' t : State), r.clearIgnored = r'.clearIgnored → step (s.issue r) = .next t →
    step (s'.issue r') = .next ⟨r', t.resp⟩

/-- The ports at reset: every level zero, by the choice of notes/assumptions/2 (the spec gives the levels to the caller),
with the outputs the function of the inputs that 10_state.md asks for. -/
def Obligations.ResetPortsAreZeroAndSettled : Prop :=
  State.reset = ⟨⟨0#4, 0#64, 0#64, 0#64, 0#64⟩, ⟨0#64, 0#64, 0#64, 0#64⟩⟩ ∧
  Settled State.reset ∧ ResponseFits State.reset.req.op State.reset.resp

/-- Every step leaves the input ports alone and the output ports settled (10_state.md, purity), and a second evaluation of
the same request changes nothing (20_memory.md, idempotence). -/
def Obligations.EveryStepSettlesThePortsAndIsIdempotent : Prop :=
  ∀ s t : State, step s = .next t → t.req = s.req ∧ Settled t ∧ step t = .next t

/-- After every step, from any state, the output ports are within the widths of 30_encoding.md's
result table: unused ports zero, Booleans 0 or 1, and a frame address page-aligned and below 2^56. That the frame address
is below 2^56 for an entry with bits 63:54 set rests on the spec's decision D8 (notes/assumptions/5), the zeros and the form
of the Booleans on its decision D6 (notes/assumptions/10). -/
def Obligations.EveryStepKeepsResponseWidths : Prop :=
  ∀ s t : State, step s = .next t → ResponseFits t.req.op t.resp

/-! Encoding. -/

/-- Words written out from the opcode map (codes: decision D4), one for each operation, and the first and the last reserved
code. -/
def Obligations.WrittenOutCodesDecode : Prop :=
  decodeTableWord 4 0b0000 = some (.decomp 0#64) ∧
  decodeTableWord 4 0b0001 = some (.compose 0#64 0#64 0#64 0#64) ∧
  decodeTableWord 4 0b0010 = some (.frameno 0#64) ∧
  decodeTableWord 4 0b0011 = some (.ptebuild 0#64 0#64) ∧
  decodeTableWord 4 0b0100 = some (.pteaddr 0#64) ∧
  decodeTableWord 4 0b0101 = some (.pteflag 0#64 0#64) ∧
  decodeTableWord 4 0b0110 = some (.pteleaf 0#64) ∧
  decodeTableWord 4 0b0111 = some (.permcls 0#3) ∧
  decodeTableWord 4 0b1000 = none ∧ decodeTableWord 4 0b1111 = none ∧
  decode ⟨0x3#4, 0x87000000#64, 0x7#64, 0#64, 0#64⟩ = .instr (.ptebuild 0x87000000#64 0x7#64) ∧
  decode ⟨0x7#4, 0xA#64, 0#64, 0#64, 0#64⟩ = .instr (.permcls 2#3)

/-- Decode and encode agree through the 260-bit vector of 30_encoding.md: every instruction, with every operand at every
value, is what its encoded vector decodes to; and the vector holds the five ports whole. -/
def Obligations.EncodedVectorDecodesToTheInstruction : Prop :=
  (∀ i : Instr, decode (Request.ofVector (encode i).toVector) = .instr i) ∧
  (∀ r : Request, Request.ofVector r.toVector = r) ∧
  (∀ v : BitVec 260, (Request.ofVector v).toVector = v)

/-- The other direction: a request that decodes to an instruction is that instruction's encoding in every bit the
operation uses; so requests decode alike exactly when they agree in those bits. -/
def Obligations.DecodedRequestIsTheEncodingUpToIgnoredBits : Prop :=
  (∀ (r : Request) (i : Instr), decode r = .instr i → encode i = r.clearIgnored) ∧
  (∀ r r' : Request, decode r = decode r' ↔ r.clearIgnored = r'.clearIgnored)

/-- The written form of an instruction (30_encoding.md section 6, decision D18) assembles to its encoding, and the class
names stand for the index in `PERMCLS` and for the flag value in `PTEBUILD`. -/
def Obligations.WrittenInstructionAssemblesToItsEncoding : Prop :=
  (∀ (env : Env) (i : Instr), assemble env (textOf i) = some (encode i)) ∧
  (∀ (env : Env) (k : PermClass), assemble env ⟨.PERMCLS, [.className k]⟩ = some (encode (.permcls k.index))) ∧
  (∀ (env : Env) (f : Word) (k : PermClass),
    assemble env ⟨.PTEBUILD, [.number f, .className k]⟩ = some (encode (.ptebuild f k.bits)))

/-- 70_reset_and_hazards.md section 3: an instruction is in contract exactly when its operands meet the caller's duties H1 to
H6 and it uses no reserved class index; the block checks none of them. That H3 puts a request on an entry with V clear out of
contract is the model's reading (notes/assumptions/13): 95_test_vectors.md counts `PTEFLAG 0x21C00006, 0x2` as in contract
by its mask alone. -/
def Obligations.InContractMeansTheCallersDuties : Prop :=
  (∀ la : Word, (Instr.decomp la).inContract = true ∧ (Instr.frameno la).inContract = true) ∧
  (∀ p d t o : Word, (Instr.compose p d t o).inContract = true ↔
    p.toNat < 512 ∧ d.toNat < 512 ∧ t.toNat < 512 ∧ o.toNat < 4096) ∧
  (∀ f c : Word, (Instr.ptebuild f c).inContract = true ↔
    f.toNat % 4096 = 0 ∧ f.toNat < 2 ^ 56 ∧ c.toNat < 2 ^ 10) ∧
  (∀ e : Word, ((Instr.pteaddr e).inContract = true ↔ e.getLsbD 0 = true) ∧
    ((Instr.pteleaf e).inContract = true ↔ e.getLsbD 0 = true)) ∧
  (∀ e b : Word, (Instr.pteflag e b).inContract = true ↔
    (∃ g : PteFlag, b = g.mask) ∧ (b = PteFlag.V.mask ∨ e.getLsbD 0 = true)) ∧
  (∀ k : ClassIndex, (Instr.permcls k).inContract = true ↔ ∃ c : PermClass, k = c.index)

/-! Laws of the decomposer and the composer. -/

/-- 40_address_decomposer.md, slices: the five results are bit slices of the address. -/
def Obligations.DecomposerResultsAreSlices : Prop :=
  ∀ (la : Word) (s : State),
    exec (.decomp la) s = .next { s with resp :=
      ⟨(la.extractLsb' 30 9).setWidth 64, (la.extractLsb' 21 9).setWidth 64,
       (la.extractLsb' 12 9).setWidth 64, (la.extractLsb' 0 12).setWidth 64⟩ } ∧
    exec (.frameno la) s = .next { s with resp := ⟨(la.extractLsb' 12 52).setWidth 64, 0#64, 0#64, 0#64⟩ }

/-- 40_address_decomposer.md, page number and indices: the 27-bit virtual page number is made of the three indices. -/
def Obligations.PageNumberIsMadeOfTheIndices : Prop :=
  ∀ (la : Word) (s : State), ∃ t u,
    exec (.decomp la) s = .next t ∧ exec (.frameno la) t = .next u ∧
    u.resp.y0 &&& 0x7FFFFFF#64 = (t.resp.y0 <<< 18) ||| (t.resp.y1 <<< 9) ||| t.resp.y2 ∧
    (la.toNat < 2 ^ 39 → u.resp.y0 = (t.resp.y0 <<< 18) ||| (t.resp.y1 <<< 9) ||| t.resp.y2)

/-- 20_memory.md and 40_address_decomposer.md: `FRAMENO` answers alike on two addresses exactly when they differ only in
bits 11:0. -/
def Obligations.SamePageNumberExactlyWithinOnePage : Prop :=
  ∀ (x y : Word) (s : State),
    exec (.frameno x) s = exec (.frameno y) s ↔ ∀ i, 12 ≤ i → x.getLsbD i = y.getLsbD i

/-- 20_memory.md and 40_address_decomposer.md: `DECOMP` answers alike on two addresses exactly when their bits 38:0 are the
same: bits 63:39 have no effect, and no lower bit is dropped. -/
def Obligations.DecompAgreesExactlyOnTheLow39Bits : Prop :=
  ∀ (x y : Word) (s : State),
    exec (.decomp x) s = exec (.decomp y) s ↔ x &&& 0x7FFFFFFFFF#64 = y &&& 0x7FFFFFFFFF#64

/-- R101: decompose, then compose the results: the address, when it is below 2^39. -/
def Obligations.DecomposeThenComposeReturnsTheAddress : Prop :=
  ∀ (la : Word) (s : State), la.toNat < 2 ^ 39 → ∃ t u,
    exec (.decomp la) s = .next t ∧
    exec (.compose t.resp.y0 t.resp.y1 t.resp.y2 t.resp.y3) t = .next u ∧ u.resp.y0 = la

/-- R102: compose fields within their widths, then decompose: the four fields. -/
def Obligations.ComposeThenDecomposeReturnsTheFields : Prop :=
  ∀ (p d t o : Word) (s : State), p.toNat < 512 → d.toNat < 512 → t.toNat < 512 → o.toNat < 4096 →
    ∃ u v, exec (.compose p d t o) s = .next u ∧ exec (.decomp u.resp.y0) u = .next v ∧ v.resp = ⟨p, d, t, o⟩

/-- 41_address_composer.md, the general identity: for every address the round trip returns bits 38:0 and clears the rest
(conflict C3: a canonical high address does not survive). -/
def Obligations.DecomposeThenComposeClearsTheHighBits : Prop :=
  ∀ (la : Word) (s : State), ∃ t u,
    exec (.decomp la) s = .next t ∧
    exec (.compose t.resp.y0 t.resp.y1 t.resp.y2 t.resp.y3) t = .next u ∧ u.resp.y0 = la &&& 0x7FFFFFFFFF#64

/-- 41_address_composer.md, the general reverse identity: what every field reads back as after an unchecked `COMPOSE`. -/
def Obligations.ComposeThenDecomposeShowsTheOverlap : Prop :=
  ∀ (p d t o : Word) (s : State), ∃ u v,
    exec (.compose p d t o) s = .next u ∧ exec (.decomp u.resp.y0) u = .next v ∧
    v.resp =
      ⟨(p.extractLsb' 0 9 ||| d.extractLsb' 9 9 ||| t.extractLsb' 18 9 ||| o.extractLsb' 30 9).setWidth 64,
       (d.extractLsb' 0 9 ||| t.extractLsb' 9 9 ||| o.extractLsb' 21 9).setWidth 64,
       (t.extractLsb' 0 9 ||| o.extractLsb' 12 9).setWidth 64,
       (o.extractLsb' 0 12).setWidth 64⟩

/-- 41_address_composer.md, corner cases 1 and 5: in contract the result is the sum of the shifted fields, below 2^39, and
in canonical form exactly when bit 8 of the top index is clear: it is never sign-extended. -/
def Obligations.InContractComposeIsTheSumAndNotSignExtended : Prop :=
  ∀ (p d t o : Word) (s : State), (Instr.compose p d t o).inContract = true → ∃ u,
    exec (.compose p d t o) s = .next u ∧
    u.resp.y0.toNat = p.toNat * 2 ^ 30 + d.toNat * 2 ^ 21 + t.toNat * 2 ^ 12 + o.toNat ∧
    u.resp.y0.toNat < 2 ^ 39 ∧ (canonical u.resp.y0 = true ↔ p.toNat < 256)

/-- 41_address_composer.md, corner case 3 (decision D7, notes/assumptions/4): the operand bits that have no effect are
exactly those shifted out of the word. -/
def Obligations.ComposeLosesTheBitsShiftedOut : Prop :=
  ∀ (p d t o p' d' t' : Word) (s : State),
    (∀ i, i < 34 → p.getLsbD i = p'.getLsbD i) → (∀ i, i < 43 → d.getLsbD i = d'.getLsbD i) →
    (∀ i, i < 52 → t.getLsbD i = t'.getLsbD i) →
    exec (.compose p d t o) s = exec (.compose p' d' t' o) s

/-! Laws of the PTE codec. -/

/-- 42_pte_codec.md, `PTEBUILD`, every bit of the entry for any operands whatever: bits 63:12 of the address land on bits
61:10, and all bits of the flag operand are ORed in (H4, H5). Bits 11:0 of the address appear nowhere (decision D12). -/
def Obligations.PtebuildPlacesEveryBit : Prop :=
  ∀ (f c : Word) (s : State), ∃ t, exec (.ptebuild f c) s = .next t ∧
    ∀ i, i < 64 → t.resp.y0.getLsbD i = ((decide (10 ≤ i ∧ i < 62) && f.getLsbD (i + 2)) || c.getLsbD i)

/-- 42_pte_codec.md, `PTEBUILD` corner case 1 and 20_memory.md, the layout: in contract the entry holds the frame number in
bits 53:10, the flags in bits 9:0, and zero above. -/
def Obligations.InContractEntryHasTheLayout : Prop :=
  ∀ (f c : Word) (s : State), (Instr.ptebuild f c).inContract = true → ∃ t,
    exec (.ptebuild f c) s = .next t ∧ t.resp.y0.extractLsb' 54 10 = 0#10 ∧
    t.resp.y0.extractLsb' 10 44 = f.extractLsb' 12 44 ∧ t.resp.y0.extractLsb' 0 10 = c.extractLsb' 0 10

/-- 42_pte_codec.md, `PTEBUILD` corner case 2 (conflict C4, decision D12, notes/assumptions/3): an unaligned address builds
the entry of the frame that contains it, with the flag region undisturbed. -/
def Obligations.UnalignedFrameBuildsTheContainingFramesEntry : Prop :=
  ∀ (f c : Word) (s : State), exec (.ptebuild f c) s = exec (.ptebuild (f &&& ~~~0xFFF#64) c) s

/-- 42_pte_codec.md, `PTEADDR`: bit by bit, address bits 55:12 are entry bits 53:10 and the rest is zero, so the result is
page-aligned and below 2^56 and the flags have no effect. That bits 63:54 have none is decision D8. -/
def Obligations.PteaddrReadsThePpnFieldBitByBit : Prop :=
  ∀ (e : Word) (s : State), ∃ t, exec (.pteaddr e) s = .next t ∧
    (∀ i, t.resp.y0.getLsbD i = (decide (12 ≤ i ∧ i < 56) && e.getLsbD (i - 2))) ∧
    t.resp.y0.toNat % 4096 = 0 ∧ t.resp.y0.toNat < 2 ^ 56

/-- 93_implementation_defined.md U4: for an entry with bits 63:54 zero, `PTEADDR` answers what any admissible
`PPN_FIELD_MASK` gives, so nothing rests on decision D8 there. Both candidates are admissible. -/
def Obligations.PteaddrNeedsNoChoiceOfMask : Prop :=
  Config.ppnMaskAdmissible Config.PPN_FIELD_MASK = true ∧
  Config.ppnMaskAdmissible Config.PPN_FIELD_MASK_UNBOUNDED = true ∧
  ∀ (m e : Word) (s : State), Config.ppnMaskAdmissible m = true → e.toNat < 2 ^ 54 →
    exec (.pteaddr e) s = .next { s with resp := ⟨(e &&& m) <<< 2, 0#64, 0#64, 0#64⟩ }

/-- 42_pte_codec.md, PTE round trip, on its exact domain: an aligned address below 2^56 with any flag set within bits 9:0
comes back whole. -/
def Obligations.FrameAddressSurvivesTheEntry : Prop :=
  ∀ (f c : Word) (s : State), (Instr.ptebuild f c).inContract = true → ∃ t u,
    exec (.ptebuild f c) s = .next t ∧ exec (.pteaddr t.resp.y0) t = .next u ∧ u.resp.y0 = f

/-- 42_pte_codec.md, PTE round trip, outside that domain (unaligned: decision D12; bits 63:56: decision D8): bits 55:12 of
the address come back. -/
def Obligations.RoundTripKeepsBits55To12 : Prop :=
  ∀ (f c : Word) (s : State), c.toNat < 2 ^ 10 → ∃ t u,
    exec (.ptebuild f c) s = .next t ∧ exec (.pteaddr t.resp.y0) t = .next u ∧
    u.resp.y0 = f &&& 0x00FFFFFFFFFFF000#64

/-- 42_pte_codec.md, `PTEFLAG` corner cases 1 and 4: for one of the ten flags the answer is that bit of the entry, V set or
not; for any mask it is 1 when any named bit is set (decision D9, notes/assumptions/6). -/
def Obligations.PteflagAnswersTheNamedBit : Prop :=
  (∀ (e : Word) (f : PteFlag) (s : State),
    exec (.pteflag e f.mask) s =
      .next { s with resp := ⟨if e.getLsbD f.bit then 1#64 else 0#64, 0#64, 0#64, 0#64⟩ }) ∧
  (∀ (e b : Word) (s : State), ∃ t, exec (.pteflag e b) s = .next t ∧
    (t.resp.y0 = 1#64 ↔ ∃ i, i < 64 ∧ e.getLsbD i = true ∧ b.getLsbD i = true))

/-- 42_pte_codec.md, flag law: an entry built from a flag set tells exactly the flags of the set (for an unaligned address
by decision D12, notes/assumptions/3; the mask form of a flag is decision D9, notes/assumptions/6). -/
def Obligations.BuiltEntryTellsItsFlags : Prop :=
  ∀ (f c : Word) (g : PteFlag) (s : State), c.toNat < 2 ^ 10 → ∃ t u,
    exec (.ptebuild f c) s = .next t ∧ exec (.pteflag t.resp.y0 g.mask) t = .next u ∧
    u.resp.y0 = if c.getLsbD g.bit then 1#64 else 0#64

/-- 42_pte_codec.md, leaf law: a built entry is a leaf exactly when its flag set has R, W or X. For an unaligned address this
rests on the spec's decision D12 (conflict C4, notes/assumptions/3). -/
def Obligations.BuiltEntryIsLeafByItsFlags : Prop :=
  ∀ (f c : Word) (s : State), c.toNat < 2 ^ 10 → ∃ t u,
    exec (.ptebuild f c) s = .next t ∧ exec (.pteleaf t.resp.y0) t = .next u ∧
    u.resp.y0 = if c &&& 0xE#64 = 0#64 then 0#64 else 1#64

/-- 20_memory.md and 42_pte_codec.md, classifying with the block's operations: the V test and `PTELEAF` tell the three
meanings of an entry. That the V test is asked with the mask `0x001` is decision D9 (notes/assumptions/6). -/
def Obligations.TwoRequestsClassifyAnEntry : Prop :=
  ∀ (e : Word) (s : State), ∃ t u,
    exec (.pteflag e 0x001#64) s = .next t ∧ exec (.pteleaf e) t = .next u ∧
    classify e =
      (if t.resp.y0 = 0#64 then PteKind.INVALID else if u.resp.y0 = 0#64 then PteKind.POINTER else PteKind.LEAF)

/-- 42_pte_codec.md, `PTEFLAG` corner case 5 and `PTELEAF` corner cases 1 to 3: `PTELEAF` is the flag test with the mask
`0x00E`, it is 1 exactly when bit 1, 2 or 3 is set, and no other bit of the entry, V among them, changes it. What `PTEFLAG`
answers for the several-bit mask `0x00E` is the spec's decision D9 (notes/assumptions/6). -/
def Obligations.PteleafIsTheTestOfThreeBits : Prop :=
  ∀ (e e' : Word) (s : State),
    exec (.pteleaf e) s = exec (.pteflag e 0x00E#64) s ∧
    exec (.pteleaf e) s = .next { s with resp :=
      ⟨if e.getLsbD 1 || e.getLsbD 2 || e.getLsbD 3 then 1#64 else 0#64, 0#64, 0#64, 0#64⟩ } ∧
    (e.extractLsb' 1 3 = e'.extractLsb' 1 3 → exec (.pteleaf e) s = exec (.pteleaf e') s)

/-- 70_reset_and_hazards.md H3: the values `PTEADDR`, `PTELEAF` and `PTEFLAG` (with a mask that does not name V) answer do
not depend on V; the meaning is withheld from an invalid entry, the value is not. What `PTEFLAG` answers for a mask that is
not a single flag, which the last clause covers too, is the spec's decision D9 (notes/assumptions/6). -/
def Obligations.ResultsDoNotConsultTheValidBit : Prop :=
  ∀ (e b : Word) (s : State),
    exec (.pteaddr (e ||| 1#64)) s = exec (.pteaddr (e &&& ~~~1#64)) s ∧
    exec (.pteleaf (e ||| 1#64)) s = exec (.pteleaf (e &&& ~~~1#64)) s ∧
    (b.getLsbD 0 = false → exec (.pteflag (e ||| 1#64) b) s = exec (.pteflag (e &&& ~~~1#64) b) s)

/-! The permission-class table. -/

/-- 43_permission_table.md, the class values and their properties: `PERMCLS` answers the OR of the class's flags; every class
has V, none has G, A, D or SOFT, only `USER_DEFAULT` has U, only `POINTER` has none of R, W, X, and W comes with R. -/
def Obligations.EveryClassReadsBackWithItsProperties : Prop :=
  ∀ (k : PermClass) (s : State), ∃ t, exec (.permcls k.index) s = .next t ∧
    (∀ g : PteFlag, t.resp.y0.getLsbD g.bit = true ↔ g ∈ k.flags) ∧
    t.resp.y0.getLsbD 0 = true ∧ t.resp.y0.toNat < 2 ^ 5 ∧
    (t.resp.y0.getLsbD 4 = true ↔ k = .USER_DEFAULT) ∧
    (t.resp.y0 &&& 0xE#64 = 0#64 ↔ k = .POINTER) ∧
    (t.resp.y0.getLsbD 2 = true → t.resp.y0.getLsbD 1 = true)

/-- 43_permission_table.md: a class can be recovered from bits 4:0 of an entry built from it, for any address. For an
unaligned address this rests on the spec's decision D12 (conflict C4, notes/assumptions/3). -/
def Obligations.ClassIsRecoveredFromTheEntry : Prop :=
  ∀ (k k' : PermClass) (f f' : Word) (s : State), ∃ t t',
    exec (.ptebuild f k.bits) s = .next t ∧ exec (.ptebuild f' k'.bits) s = .next t' ∧
    (t.resp.y0.extractLsb' 0 5 = t'.resp.y0.extractLsb' 0 5 ↔ k = k')

/-- 95_test_vectors.md, "class by class through the codec": the caller reads a class, builds an entry for an in-contract
frame, and reads frame, flags and kind back; every request is answered and nothing is lost. The class index is decision D10
(notes/assumptions/11), the mask form of a flag decision D9 (notes/assumptions/6). -/
def Obligations.ClassThroughTheCodecReadsBack : Prop :=
  ∀ (k : PermClass) (f : Word) (g : PteFlag) (s : State), alignedFrame f = true → inPhysicalSpace f = true →
    ∃ t1 t2 t3 t4 t5,
      exec (.permcls k.index) s = .next t1 ∧ exec (.ptebuild f t1.resp.y0) t1 = .next t2 ∧
      exec (.pteaddr t2.resp.y0) t2 = .next t3 ∧ t3.resp.y0 = f ∧
      exec (.pteflag t2.resp.y0 g.mask) t3 = .next t4 ∧ (t4.resp.y0 = 1#64 ↔ g ∈ k.flags) ∧
      exec (.pteleaf t2.resp.y0) t4 = .next t5 ∧ (t5.resp.y0 = 0#64 ↔ k = .POINTER) ∧
      classify t2.resp.y0 = if k = .POINTER then PteKind.POINTER else PteKind.LEAF
end

