-- ==== Sys2Proof/Laws/Bits.lean ====
section
/-! SUPPORT. What each shared operation and each function of the source does to one bit. Proofs about words go bit by
bit through these. -/

namespace Sys2Proof.Machine

theorem getLsbD_shl (v : Word) (n i : Nat) :
    (shl v n).getLsbD i = (decide (i < 64) && !decide (i < n) && v.getLsbD (i - n)) := by
  simp [shl]

theorem getLsbD_shr (v : Word) (n i : Nat) : (shr v n).getLsbD i = v.getLsbD (n + i) := by
  simp [shr]

/-- The bits of an index field: nine of them, from the field's position up. -/
theorem getLsbD_index (la : Word) (n i : Nat) :
    (fieldOf la n Config.IDX_MASK).getLsbD i = (decide (i < 9) && la.getLsbD (n + i)) := by
  have mask : Config.IDX_MASK = (BitVec.allOnes 9).setWidth 64 := by decide
  rw [fieldOf, BitVec.getLsbD_and, getLsbD_shr, mask, BitVec.getLsbD_setWidth, BitVec.getLsbD_allOnes]
  rcases Nat.lt_or_ge i 9 with h | h
  · simp [h, Nat.lt_trans h (by decide : 9 < 64)]
  · simp [Nat.not_lt.mpr h]

/-- The bits of the page offset. -/
theorem getLsbD_pgoffOf (la : Word) (i : Nat) :
    (pgoffOf la).getLsbD i = (decide (i < 12) && la.getLsbD i) := by
  have mask : Config.PGOFF_MASK = (BitVec.allOnes 12).setWidth 64 := by decide
  rw [pgoffOf, BitVec.getLsbD_and, mask, BitVec.getLsbD_setWidth, BitVec.getLsbD_allOnes]
  rcases Nat.lt_or_ge i 12 with h | h
  · simp [h, Nat.lt_trans h (by decide : 12 < 64)]
  · simp [Nat.not_lt.mpr h]

theorem getLsbD_pdpxOf (la : Word) (i : Nat) :
    (pdpxOf la).getLsbD i = (decide (i < 9) && la.getLsbD (30 + i)) := getLsbD_index la 30 i

theorem getLsbD_pdxOf (la : Word) (i : Nat) :
    (pdxOf la).getLsbD i = (decide (i < 9) && la.getLsbD (21 + i)) := getLsbD_index la 21 i

theorem getLsbD_ptxOf (la : Word) (i : Nat) :
    (ptxOf la).getLsbD i = (decide (i < 9) && la.getLsbD (12 + i)) := getLsbD_index la 12 i

theorem getLsbD_pageNumber (v : Word) (i : Nat) : (pageNumber v).getLsbD i = v.getLsbD (12 + i) :=
  getLsbD_shr v 12 i

/-- The bits of the PPN mask: 10 to 53. -/
theorem getLsbD_ppnMask (i : Nat) :
    Config.PPN_FIELD_MASK.getLsbD i = (decide (10 ≤ i) && decide (i < 54)) := by
  have mask : Config.PPN_FIELD_MASK = (BitVec.allOnes 44).setWidth 64 <<< 10 := by decide
  rw [mask, BitVec.getLsbD_shiftLeft, BitVec.getLsbD_setWidth, BitVec.getLsbD_allOnes]
  rcases Nat.lt_or_ge i 10 with h | h
  · simp [h, Nat.not_le.mpr h]
  · rcases Nat.lt_or_ge i 54 with h' | h'
    · have : i - 10 < 44 := by omega
      have : i < 64 := by omega
      have : i - 10 < 64 := by omega
      simp [*, Nat.not_lt.mpr h]
    · have : ¬ i - 10 < 44 := by omega
      simp [*, Nat.not_lt.mpr h']

/-- The bits of a field of an address lie in the word. -/
theorem getLsbD_of_ge_64 (v : Word) {i : Nat} (h : 64 ≤ i) : v.getLsbD i = false :=
  BitVec.getLsbD_of_ge v i h

/-- A word is determined by its 64 bits. -/
theorem word_ext {v w : Word} (h : ∀ i, i < 64 → v.getLsbD i = w.getLsbD i) : v = w :=
  BitVec.eq_of_getLsbD_eq h

/-- The flag test is an OR over the 64 bits. -/
theorem anyBitOf_eq_true_iff (pte mask : Word) :
    anyBitOf pte mask = true ↔ ∃ i, i < 64 ∧ pte.getLsbD i = true ∧ mask.getLsbD i = true := by
  constructor
  · intro h
    by_contra hno
    push Not at hno
    have hz : pte &&& mask = 0#64 := by
      apply word_ext
      intro i hi
      have := hno i hi
      cases hp : pte.getLsbD i <;> simp_all
    simp [anyBitOf, hz] at h
  · rintro ⟨i, -, hp, hm⟩
    by_contra hno
    have hz : pte &&& mask = 0#64 := by simpa [anyBitOf] using hno
    have : (pte &&& mask).getLsbD i = true := by simp [hp, hm]
    simp [hz] at this

/-- The mask of a flag has that flag's bit and no other. -/
theorem getLsbD_flagMask (g : PteFlag) (i : Nat) : g.mask.getLsbD i = decide (i = g.bit) := by
  have hb : g.bit < 64 := by cases g <;> decide
  simp only [PteFlag.mask, getLsbD_shl, BitVec.getLsbD_one]
  grind

/-- The test with the mask of one flag reads that flag's bit. -/
theorem anyBitOf_flagMask (e : Word) (g : PteFlag) : anyBitOf e g.mask = e.getLsbD g.bit := by
  rw [Bool.eq_iff_iff, anyBitOf_eq_true_iff]
  constructor
  · rintro ⟨i, -, he, hm⟩
    rw [getLsbD_flagMask] at hm
    exact of_decide_eq_true hm ▸ he
  · intro h
    exact ⟨g.bit, by cases g <;> decide, h, by rw [getLsbD_flagMask]; simp⟩

/-- Every bit of a composed address: the OR of four operand bits, each at its shift. -/
theorem getLsbD_composeAddress (p d t o : Word) (i : Nat) : (composeAddress p d t o).getLsbD i =
    (((decide (i < 64) && !decide (i < 30) && p.getLsbD (i - 30)) ||
      (decide (i < 64) && !decide (i < 21) && d.getLsbD (i - 21)) ||
      (decide (i < 64) && !decide (i < 12) && t.getLsbD (i - 12))) || o.getLsbD i) := by
  simp only [composeAddress, BitVec.getLsbD_or, getLsbD_shl, Config.PDPXSHIFT, Config.PDXSHIFT, Config.PTXSHIFT]

/-- Every bit of a built entry. -/
theorem getLsbD_buildPte (f c : Word) (i : Nat) : (buildPte f c).getLsbD i =
    ((decide (10 ≤ i ∧ i < 62) && f.getLsbD (i + 2)) || c.getLsbD i) := by
  simp only [buildPte, toPpnField, BitVec.getLsbD_or, getLsbD_shl, getLsbD_pageNumber, Config.PTE_PPN_SHIFT]
  by_cases h : 10 ≤ i ∧ i < 62
  · have e : 12 + (i - 10) = i + 2 := by omega
    have h64 : i < 64 := by omega
    simp [e, h, h64, Nat.not_lt.mpr h.1]
  · simp only [h, decide_false, Bool.false_and, Bool.false_or]
    by_cases h10 : i < 10
    · simp [h10]
    · have hz : f.getLsbD (12 + (i - 10)) = false := BitVec.getLsbD_of_ge _ _ (by omega)
      simp [hz]

/-- Every bit of an extracted frame address. -/
theorem getLsbD_extractFrameAddress (e : Word) (i : Nat) :
    (extractFrameAddress e).getLsbD i = (decide (12 ≤ i ∧ i < 56) && e.getLsbD (i - 2)) := by
  simp only [extractFrameAddress, frameAddressWith, getLsbD_shl, BitVec.getLsbD_and, getLsbD_ppnMask,
    Config.PTE_ADDR_SHIFT, Config.PGSHIFT, Config.PTE_PPN_SHIFT]
  grind

/-- A word below `2 ^ n` has no bit from `n` up. -/
theorem getLsbD_eq_false_of_toNat_lt (v : Word) (n : Nat) (h : v.toNat < 2 ^ n) (i : Nat) (hi : n ≤ i) :
    v.getLsbD i = false :=
  Nat.testBit_lt_two_pow (lt_of_lt_of_le h (Nat.pow_le_pow_right (by decide) hi))

/-- A word with no bit from `n` up is below `2 ^ n`. -/
theorem toNat_lt_of_getLsbD (v : Word) (n : Nat) (h : ∀ i, n ≤ i → v.getLsbD i = false) : v.toNat < 2 ^ n :=
  Nat.lt_pow_two_of_testBit _ h

end Sys2Proof.Machine
end

