-- ==== Sys2Proof/Laws/State.lean ====
section
/-! SUPPORT. One lemma for each field of `State` under each update of it, and the shapes of a response. -/

namespace Sys2Proof.Machine

@[simp] theorem issue_req (s : State) (r : Request) : (s.issue r).req = r := rfl

@[simp] theorem issue_resp (s : State) (r : Request) : (s.issue r).resp = s.resp := rfl

@[simp] theorem drive_req (s : State) (y : Response) : (s.drive y).req = s.req := rfl

@[simp] theorem drive_resp (s : State) (y : Response) : (s.drive y).resp = y := rfl

@[simp] theorem issue_issue (s : State) (r r' : Request) : (s.issue r).issue r' = s.issue r' := rfl

@[simp] theorem drive_drive (s : State) (y y' : Response) : (s.drive y).drive y' = s.drive y' := rfl

theorem issue_drive (s : State) (r : Request) (y : Response) : (s.drive y).issue r = (s.issue r).drive y := rfl

@[simp] theorem onY0_y0 (w : Word) : (onY0 w).y0 = w := rfl

@[simp] theorem onY0_y1 (w : Word) : (onY0 w).y1 = 0#64 := rfl

@[simp] theorem onY0_y2 (w : Word) : (onY0 w).y2 = 0#64 := rfl

@[simp] theorem onY0_y3 (w : Word) : (onY0 w).y3 = 0#64 := rfl

theorem boolWord_eq_zero_or_one (p : Bool) : boolWord p = 0#64 ∨ boolWord p = 1#64 := by
  cases p
  · exact .inl rfl
  · exact .inr rfl

@[simp] theorem boolWord_eq_one_iff (p : Bool) : boolWord p = 1#64 ↔ p = true := by
  cases p <;> decide

@[simp] theorem boolWord_eq_zero_iff (p : Bool) : boolWord p = 0#64 ↔ p = false := by
  cases p <;> decide

/-- Two responses on `y0` alone are the same exactly when their words are. -/
theorem onY0_inj (v w : Word) : onY0 v = onY0 w ↔ v = w :=
  ⟨congrArg Response.y0, congrArg onY0⟩

/-- Two answers from one state are the same exactly when their responses are. -/
theorem next_drive_inj (s : State) (y y' : Response) :
    (.next (s.drive y) : Host.Outcome State Fault Refusal) = .next (s.drive y') ↔ y = y' := by
  constructor
  · intro h
    injection h with h
    exact congrArg State.resp h
  · rintro rfl
    rfl

end Sys2Proof.Machine
end

