-- ==== Sys2Proof/Laws/Decode.lean ====
section
/-! SUPPORT. The opcode table, and what decoding and a step can do, said once. -/

namespace Sys2Proof

/-- No two rows of the opcode table match one code. -/
theorem opcodeTable_rows_disjoint :
    opcodeTable.Pairwise fun x y => ∀ op : Op, ¬ (op &&& x.mask = x.code ∧ op &&& y.mask = y.code) := by
  decide

@[simp] theorem ofOp_code (o : Opcode) : Opcode.ofOp o.code = some o := by
  cases o <;> decide

/-- An operation is selected by its own code and no other. -/
theorem code_of_ofOp : ∀ (op : Op) (o : Opcode), Opcode.ofOp op = some o → op = o.code := by
  intro op o
  revert op
  cases o <;> decide

theorem ofOp_eq_some_iff (op : Op) (o : Opcode) : Opcode.ofOp op = some o ↔ op = o.code :=
  ⟨code_of_ofOp op o, fun h => h ▸ ofOp_code o⟩

/-- The reserved codes are those with bit 3 set. -/
theorem ofOp_eq_none_iff : ∀ op : Op, Opcode.ofOp op = none ↔ op.getLsbD 3 = true := by decide

/-- Decoding puts an instruction's operation on the code that selects it. -/
theorem opcode_withOperands (o : Opcode) (r : Request) : (o.withOperands r).opcode = o := by
  cases o <;> rfl

theorem decode_of_ofOp {r : Request} {o : Opcode} (h : Opcode.ofOp r.op = some o) :
    decode r = .instr (o.withOperands r) := by simp [decode, h]

theorem decode_of_reserved {r : Request} (h : Opcode.ofOp r.op = none) : decode r = .reserved r.op := by
  simp [decode, h]

/-- The shape of every round trip: the code selects the operation and the operand ports give the operands back. -/
theorem decode_encode_of {i : Instr} (hop : (encode i).op = i.opcode.code)
    (hargs : i.opcode.withOperands (encode i) = i) :
    Opcode.ofOp (encode i).op = some i.opcode ∧ decode (encode i) = .instr i := by
  have h : Opcode.ofOp (encode i).op = some i.opcode := by rw [hop, ofOp_code]
  exact ⟨h, by rw [decode_of_ofOp h, hargs]⟩

namespace Machine

/-! What each operation answers, one lemma an operation; the input ports stay (`drive_req`). -/

theorem exec_decomp (la : Word) (s : State) :
    exec (.decomp la) s = .next (s.drive ⟨pdpxOf la, pdxOf la, ptxOf la, pgoffOf la⟩) := rfl

theorem exec_compose (p d t o : Word) (s : State) :
    exec (.compose p d t o) s = .next (s.drive (onY0 (composeAddress p d t o))) := rfl

theorem exec_frameno (la : Word) (s : State) : exec (.frameno la) s = .next (s.drive (onY0 (pageNumber la))) := rfl

theorem exec_ptebuild (f c : Word) (s : State) :
    exec (.ptebuild f c) s = .next (s.drive (onY0 (buildPte f c))) := rfl

theorem exec_pteaddr (e : Word) (s : State) :
    exec (.pteaddr e) s = .next (s.drive (onY0 (extractFrameAddress e))) := rfl

theorem exec_pteflag (e b : Word) (s : State) :
    exec (.pteflag e b) s = .next (s.drive (onY0 (boolWord (anyBitOf e b)))) := rfl

theorem exec_pteleaf (e : Word) (s : State) :
    exec (.pteleaf e) s = .next (s.drive (onY0 (boolWord (isLeaf e)))) := rfl

theorem exec_permcls (k : ClassIndex) (s : State) : exec (.permcls k) s = .next (s.drive (onY0 (classBits k))) := rfl

/-- All that an operation can do: it answers, its response is a function of the instruction alone, and the input ports
stay. -/
theorem exec_answers (i : Instr) : ∃ y : Response, ∀ s : State, exec i s = .next (s.drive y) := by
  cases i <;> exact ⟨_, fun _ => rfl⟩

theorem step_of_instr {s : State} {i : Instr} (h : decode s.req = .instr i) : step s = exec i s := by
  simp [step, h]

theorem step_of_reserved {s : State} {op : Op} (h : decode s.req = .reserved op) :
    step s = .refused (.reservedOp op) := by simp [step, h]

/-- All that a step can do when it answers a next state. -/
theorem step_next_cases {s t : State} (h : step s = .next t) :
    ∃ i y, decode s.req = .instr i ∧ t = s.drive y ∧ ∀ u : State, exec i u = .next (u.drive y) := by
  cases hd : decode s.req with
  | reserved op => simp [step_of_reserved hd] at h
  | instr i =>
    obtain ⟨y, hy⟩ := exec_answers i
    rw [step_of_instr hd, hy s] at h
    exact ⟨i, y, rfl, by simpa using h.symm, hy⟩

/-- The value of `eval` on a request that decodes to an instruction. -/
theorem eval_of_exec {r : Request} {i : Instr} {y : Response} (hd : decode r = .instr i)
    (hy : ∀ u : State, exec i u = .next (u.drive y)) : eval r = y := by
  simp [eval, hd, hy]

end Machine

end Sys2Proof
end

