-- ==== Sys2Proof/Laws/PerInstr.lean ====
section
/-! SUPPORT. The families stated for each instruction (LAWS.json): `RoundTrip`, the request an instruction encodes to
decodes to it, with every operand at every value. -/

namespace Sys2Proof.Laws.RoundTrip

/-- The request of an instruction selects its operation and decodes to it. -/
def Statement (i : Instr) : Prop := Opcode.ofOp (encode i).op = some i.opcode ∧ decode (encode i) = .instr i

theorem decomp (la : Word) : Statement (.decomp la) := decode_encode_of rfl rfl

theorem compose (p d t o : Word) : Statement (.compose p d t o) := decode_encode_of rfl rfl

theorem frameno (la : Word) : Statement (.frameno la) := decode_encode_of rfl rfl

theorem ptebuild (f c : Word) : Statement (.ptebuild f c) := decode_encode_of rfl rfl

theorem pteaddr (e : Word) : Statement (.pteaddr e) := decode_encode_of rfl rfl

theorem pteflag (e b : Word) : Statement (.pteflag e b) := decode_encode_of rfl rfl

theorem pteleaf (e : Word) : Statement (.pteleaf e) := decode_encode_of rfl rfl

theorem permcls (k : ClassIndex) : Statement (.permcls k) :=
  decode_encode_of rfl (congrArg Instr.permcls (by simp [classIndexOf, encode]))

end Sys2Proof.Laws.RoundTrip
end

