-- ==== Sys2Proof/Tests/Slice0.lean ====
section
/-! SUPPORT. The model's own tests. Expected values are the vectors of 95_test_vectors.md (their ids stand in the
comments) or are written out from the rule a comment names. The last part holds one witness for the hypotheses of each
statement of the obligations file. -/

namespace Sys2Proof.Tests

open Sys2Proof.Machine

/-- The ports with a request on them and outputs that no operation of these tests answers. -/
def ports (op : Op) (a b c d : Word) : State := ⟨⟨op, a, b, c, d⟩, ⟨0xBAD#64, 0xBAD#64, 0xBAD#64, 0xBAD#64⟩⟩

/-- The response of a step, none where it stops. -/
def stepAnswer (s : State) : Option Response :=
  match step s with
  | .next t => some t.resp
  | .fault f => nomatch f
  | .refused _ => none

/-! Ill-formed terms, one for each check of WellFormed.lean. -/

/-- R75: class index 7 is reserved. -/
theorem test_reserved_class_is_ill_formed : (Instr.permcls 7#3).wellFormed = false := by decide

theorem test_named_class_is_well_formed : (Instr.permcls 6#3).wellFormed = true := by decide

/-- P5: an unaligned address (H1). -/
theorem test_duty_aligned : (Instr.ptebuild 0x87000123#64 0x6#64).brokenDuties = [.alignedFrame] := by decide

/-- V-PB-9 (H5). -/
theorem test_duty_physical : (Instr.ptebuild 0x100000000000000#64 0x1#64).brokenDuties = [.frameInPhysicalSpace] := by
  decide

/-- V-PB-8 (H4). -/
theorem test_duty_flags : (Instr.ptebuild 0x87000000#64 0x407#64).brokenDuties = [.flagsInRegion] := by decide

/-- R143: several contracts broken at once. -/
theorem test_duties_together :
    (Instr.ptebuild 0x100000000000001#64 0x400#64).brokenDuties =
      [.alignedFrame, .frameInPhysicalSpace, .flagsInRegion] := by decide

/-- V-CO-6, V-CO-7, V-CO-8, V-CO-9 (H2), each field in turn. -/
theorem test_duty_fields :
    [Instr.compose 0#64 0#64 0#64 0x1000#64, .compose 0#64 0#64 0x200#64 0#64, .compose 0#64 0x200#64 0#64 0#64,
      .compose 0x200#64 0#64 0#64 0#64].map Instr.brokenDuties = List.replicate 4 [.fieldsInRange] := by decide

/-- V-PF-14 to V-PF-17 (H6): the zero mask, several bits, a bit above 9. -/
theorem test_duty_single_flag :
    [Instr.pteflag 0x21C00007#64 0#64, .pteflag 0x21C00005#64 0xE#64, .pteflag 0x21C00007#64 0x400#64].map
      Instr.brokenDuties = List.replicate 3 [.singleFlag] := by decide

/-- V-PF-12 and V-PF-13 (H3): on an invalid entry only the V test is in contract. -/
theorem test_duty_valid :
    [Instr.pteflag 0x21C00006#64 0x1#64, .pteflag 0x21C00006#64 0x2#64, .pteaddr 0x21C00006#64,
      .pteleaf 0x21C00006#64].map Instr.brokenDuties =
      [[], [.validConfirmed], [.validConfirmed], [.validConfirmed]] := by decide

theorem test_duty_named_class : (Instr.permcls 7#3).brokenDuties = [.namedClass] := by decide

/-! Decoding: for each operation the code of R72 written out, with operands on the ports of R73. -/

theorem test_decode_decomp : decode ⟨0b0000#4, 0x3000#64, 1#64, 2#64, 3#64⟩ = .instr (.decomp 0x3000#64) := by decide

theorem test_decode_compose :
    decode ⟨0b0001#4, 1#64, 2#64, 3#64, 4#64⟩ = .instr (.compose 1#64 2#64 3#64 4#64) := by decide

theorem test_decode_frameno : decode ⟨0b0010#4, 0x87654000#64, 1#64, 2#64, 3#64⟩ = .instr (.frameno 0x87654000#64) := by
  decide

theorem test_decode_ptebuild :
    decode ⟨0b0011#4, 0x87000000#64, 0x7#64, 2#64, 3#64⟩ = .instr (.ptebuild 0x87000000#64 0x7#64) := by decide

theorem test_decode_pteaddr : decode ⟨0b0100#4, 0x21C00007#64, 1#64, 2#64, 3#64⟩ = .instr (.pteaddr 0x21C00007#64) := by
  decide

theorem test_decode_pteflag :
    decode ⟨0b0101#4, 0x21C00007#64, 0x4#64, 2#64, 3#64⟩ = .instr (.pteflag 0x21C00007#64 0x4#64) := by decide

theorem test_decode_pteleaf : decode ⟨0b0110#4, 0x21C00001#64, 1#64, 2#64, 3#64⟩ = .instr (.pteleaf 0x21C00001#64) := by
  decide

/-- V-PC-9: `a[63:3]` is ignored. -/
theorem test_decode_permcls : decode ⟨0b0111#4, 0xA#64, 1#64, 2#64, 3#64⟩ = .instr (.permcls 2#3) := by decide

theorem test_decode_reserved : decode ⟨0b1000#4, 0x3000#64, 0#64, 0#64, 0#64⟩ = .reserved 8#4 := by decide

set_option exponentiation.threshold 300 in
/-- R70: `(op, a, b, c, d)` with `op` at the top and `d` at the bottom. -/
theorem test_vector_layout :
    (Request.mk 0x3#4 0x87000000#64 0x7#64 0x1#64 0x2#64).toVector =
      0x30000000087000000000000000000000700000000000000010000000000000002#260 := by decide

/-- The word of a table row placed on the ports is what the next step runs; `PERMCLS 0` is `POINTER` (V-PC-1). -/
theorem test_fetch_word : stepAnswer (State.reset.withFetchWord 8 0x7) = some ⟨1#64, 0#64, 0#64, 0#64⟩ := by decide

/-! Results, at most two an operation. -/

/-- V-DC-11, with the unused ports carrying values (R26). -/
theorem test_decomp : stepAnswer (ports 0#4 0x3FC0201ABC#64 0xDEAD#64 0xBEEF#64 0xFFFFFFFFFFFFFFFF#64) =
    some ⟨0xFF#64, 0x1#64, 0x1#64, 0xABC#64⟩ := by decide

/-- V-DC-13: a canonical high address. -/
theorem test_decomp_high : stepAnswer (ports 0#4 0xFFFFFFFFC0200000#64 0#64 0#64 0#64) =
    some ⟨0x1FF#64, 0x1#64, 0#64, 0#64⟩ := by decide

/-- V-CO-10: OR, not addition. -/
theorem test_compose_or : stepAnswer (ports 1#4 0#64 0#64 0x1#64 0x1FFF#64) = some ⟨0x1FFF#64, 0#64, 0#64, 0#64⟩ := by
  decide

/-- V-CO-19: the same value on every port. -/
theorem test_compose_ports : stepAnswer (ports 1#4 5#64 5#64 5#64 5#64) = some ⟨0x140A05005#64, 0#64, 0#64, 0#64⟩ := by
  decide

/-- V-FN-7: bits 63:39 are kept. -/
theorem test_frameno : stepAnswer (ports 2#4 0xFFFFFFC000000000#64 0#64 0#64 0#64) =
    some ⟨0xFFFFFFC000000#64, 0#64, 0#64, 0#64⟩ := by decide

/-- V-PB-6: an unaligned address. -/
theorem test_ptebuild_unaligned : stepAnswer (ports 3#4 0x87000123#64 0x7#64 0#64 0#64) =
    some ⟨0x21C00007#64, 0#64, 0#64, 0#64⟩ := by decide

/-- V-PB-10: bits 63:56 of the address land on bits 61:54. -/
theorem test_ptebuild_top : stepAnswer (ports 3#4 0xFFFFFFFFFFFFF000#64 0#64 0#64 0#64) =
    some ⟨0x3FFFFFFFFFFFFC00#64, 0#64, 0#64, 0#64⟩ := by decide

/-- V-PA-7: bits 63:54 and 9:0 are stripped. -/
theorem test_pteaddr : stepAnswer (ports 4#4 0xFFFFFFFFFFFFFFFF#64 0#64 0#64 0#64) =
    some ⟨0xFFFFFFFFFFF000#64, 0#64, 0#64, 0#64⟩ := by decide

/-- V-PA-11: the top of the PPN field. -/
theorem test_pteaddr_top : stepAnswer (ports 4#4 0x20000000000000#64 0#64 0#64 0#64) =
    some ⟨0x80000000000000#64, 0#64, 0#64, 0#64⟩ := by decide

/-- V-PF-13: R of an invalid entry. -/
theorem test_pteflag_invalid : stepAnswer (ports 5#4 0x21C00006#64 0x2#64 0#64 0#64) =
    some ⟨1#64, 0#64, 0#64, 0#64⟩ := by decide

/-- S-B-4: X of a `READ_WRITE` entry. -/
theorem test_pteflag_clear : stepAnswer (ports 5#4 0x21C00007#64 0x8#64 0#64 0#64) =
    some ⟨0#64, 0#64, 0#64, 0#64⟩ := by decide

/-- V-PL-9: every bit but R, W, X. -/
theorem test_pteleaf_other_bits : stepAnswer (ports 6#4 0xFFFFFFFFFFFFFFF1#64 0#64 0#64 0#64) =
    some ⟨0#64, 0#64, 0#64, 0#64⟩ := by decide

/-- V-PL-12: X alone, V = 0. -/
theorem test_pteleaf_invalid : stepAnswer (ports 6#4 0x8#64 0#64 0#64 0#64) = some ⟨1#64, 0#64, 0#64, 0#64⟩ := by decide

/-- V-PC-1 to V-PC-7: the seven values of R131. -/
theorem test_permcls_values : classTable.map PermClass.bits =
    [0x001#64, 0x003#64, 0x007#64, 0x009#64, 0x00B#64, 0x00F#64, 0x01F#64] := by decide

/-- V-PC-8: the reserved index (decision D10). -/
theorem test_permcls_reserved : stepAnswer (ports 7#4 7#64 0#64 0#64 0#64) = some ⟨0#64, 0#64, 0#64, 0#64⟩ := by decide

/-- V-RS-1: a reserved code is refused by the model; the block's outputs are zero (decision D5). -/
theorem test_reserved_code : step (ports 8#4 0x3000#64 0#64 0#64 0#64) = .refused (.reservedOp 8#4) ∧
    eval ⟨8#4, 0x3000#64, 0#64, 0#64, 0#64⟩ = ⟨0#64, 0#64, 0#64, 0#64⟩ := ⟨rfl, by decide⟩

/-! Constants. -/

/-- R130: the ten masks. -/
theorem test_flag_masks : [PteFlag.V, .R, .W, .X, .U, .G, .A, .D, .SOFT0, .SOFT1].map PteFlag.mask =
    [0x001#64, 0x002#64, 0x004#64, 0x008#64, 0x010#64, 0x020#64, 0x040#64, 0x080#64, 0x100#64, 0x200#64] := by decide

/-- R7 to R12: the summary table's values. -/
theorem test_constants : (Config.PTSIZE, Config.PPN_BITS, Config.PTE_ADDR_SHIFT) = (2097152, 44, 2) ∧
    Config.PTSIZE = 2 ^ Config.PDXSHIFT ∧ Config.topEntrySpan = 2 ^ Config.PDPXSHIFT ∧
    Config.PGSIZE = 2 ^ Config.PGOFF_BITS ∧ Config.NPTEENTRY = 2 ^ Config.IDX_BITS ∧
    Config.NPDEENTRY = Config.NPTEENTRY ∧ Config.NPDPEENTRY = Config.NPTEENTRY ∧
    Config.LEVELS * Config.IDX_BITS + Config.PGOFF_BITS = Config.VA_BITS ∧
    Config.PPN_BITS + Config.PGSHIFT = Config.PA_BITS ∧ Config.PA_BITS ≤ Config.XLEN ∧
    Config.PTE_FLAGS_MASK = flagSet [.V, .R, .W, .X, .U, .G, .A, .D, .SOFT0, .SOFT1] ∧
    Config.PTE_RWX_MASK = flagSet [.R, .W, .X] := by decide

/-- R54: the three entries of program P2 and its invalid one. -/
theorem test_classify : [0x20100401#64, 0x20080007#64, 0x20100800#64].map classify = [.POINTER, .LEAF, .INVALID] := by
  decide

/-! The textual form and a program of the caller. -/

/-- R79: `POINTER` as operand of `PTEBUILD`, and flag names as operand of `PTEFLAG` (programs P2 and P4). -/
theorem test_assemble : assemble [] ⟨.PTEBUILD, [.number 0x80401000#64, .className .POINTER]⟩ =
      some ⟨3#4, 0x80401000#64, 1#64, 0#64, 0#64⟩ ∧
    assemble [] ⟨.PTEFLAG, [.number 0x21C000C7#64, .flags [.D]]⟩ = some ⟨5#4, 0x21C000C7#64, 0x80#64, 0#64, 0#64⟩ ∧
    assemble [] ⟨.PTEADDR, [.className .POINTER]⟩ = none ∧ assemble [] ⟨.COMPOSE, [.number 0#64]⟩ = none := by decide

/-- Program P4, the lines that change an entry's permissions, read from their text. -/
theorem test_program_change_permissions :
    runText State.reset [("old", 0x21C000C7#64)]
      ["f = PTEADDR old", "ro = PERMCLS READ_ONLY", "new2 = PTEBUILD f, 0xC3", "wr = PTEFLAG new2, W"] =
    some [("wr", 0#64), ("new2", 0x21C000C3#64), ("ro", 3#64), ("f", 0x87000000#64), ("old", 0x21C000C7#64)] := by decide

/-- R79 and R15: several results, an OR of flag names, grouped digits; and three texts that are no request. -/
theorem test_read_line :
    readLine "(p, d, t, o) = DECOMP 0x3F_C020_1ABC" =
      some ⟨["p", "d", "t", "o"], ⟨.DECOMP, [.number 0x3FC0201ABC#64]⟩⟩ ∧
    readLine "pte = PTEBUILD frame, V | R | U" =
      some ⟨["pte"], ⟨.PTEBUILD, [.resultName "frame", .flags [.V, .R, .U]]⟩⟩ ∧
    [readLine "x = WALK 1", readLine "x = PTEADDR 12Z", readLine "x PTEADDR 1"] = [none, none, none] := by decide

/-- The model's own choices (notes/assumptions/14), where R79 is silent: one result name in parentheses is that result, and
a name given twice in one line stands for the lower result port (here PDPX, 0xFF, and not PDX, 1). -/
theorem test_result_names_chosen :
    readLine "(x) = PTEADDR y" = readLine "x = PTEADDR y" ∧ readLine "x = PTEADDR y" ≠ none ∧
    (runText State.reset [] ["(p, p, t, o) = DECOMP 0x3F_C020_1ABC", "la = COMPOSE p, 0, 0, 0"]).bind (·.lookup "la") =
      some 0x3FC0000000#64 := by decide

/-- R79: the spelling of a request's encoding, the rule's own example. -/
theorem test_spelling : encodingSpelled (.ptebuild 0x87000000#64 0x7#64) = "op=0x3 a=0x87000000 b=0x7" := by decide

/-- R79: a line and a response as written; the line is the source's `build_pte(frame_base, READ_WRITE)` of scenario B. -/
theorem test_spelled_line :
    (Line.mk ["pte"] ⟨.PTEBUILD, [.number 0x87000000#64, .className .READ_WRITE]⟩).spelled =
      "pte = PTEBUILD 0x87000000, READ_WRITE" ∧
    responseSpelled .DECOMP ⟨0#64, 0#64, 3#64, 0#64⟩ = "y0=0x0 y1=0x0 y2=0x3 y3=0x0" := by decide

/-! Witnesses: for each statement with hypotheses, operands and states that meet them all, at the ends of their ranges. -/

theorem witness_StepRunsTheDecodedInstruction :
    decode (ports 3#4 0x87000000#64 0x7#64 0#64 0#64).req = .instr (.ptebuild 0x87000000#64 0x7#64) ∧
    decodeTableWord 8 0x7 = some (.permcls 0#3) := by decide

theorem witness_ReservedCodesAreRefusedByName : 8 ≤ (8#4).toNat ∧ 8 ≤ (0xF#4).toNat := by decide

theorem witness_CodeAloneDecidesWhetherRequestIsReserved : (7#4).toNat < 8 ∧ 8 ≤ (8#4).toNat := by decide

theorem witness_NoStepFaultsAndEveryOperationAnswers :
    step (ports 0xF#4 0#64 0#64 0#64 0#64) = .refused (.reservedOp 0xF#4) := rfl

theorem witness_ResponseDependsOnTheRequestAlone :
    State.reset.req = (ports 0#4 0#64 0#64 0#64 0#64).req ∧ step State.reset = .next State.reset := ⟨rfl, rfl⟩

/-- Three requests on two blocks, and the same in another order, all on one block. -/
theorem witness_InstancesAnswerAsIndependentEvaluations :
    let r : Request := ⟨0#4, 0x3000#64, 0#64, 0#64, 0#64⟩
    let x : Request := ⟨8#4, 0#64, 0#64, 0#64, 0#64⟩
    let q : List (Nat × Request) := [(0, r), (1, x), (1, r)]
    let q' : List (Nat × Request) := [(0, x), (0, r), (0, r)]
    (∀ y ∈ q, y.1 < [State.reset, State.reset].length) ∧ (∀ y ∈ q', y.1 < [State.reset].length) ∧
    (q.map Prod.snd).Perm (q'.map Prod.snd) := by decide

theorem witness_IgnoredOperandBitsChangeNothing :
    (Request.mk 7#4 0xA#64 1#64 2#64 3#64).clearIgnored = (Request.mk 7#4 2#64 0#64 0#64 0#64).clearIgnored ∧
    step (State.reset.issue ⟨7#4, 0xA#64, 1#64, 2#64, 3#64⟩) =
      .next ⟨⟨7#4, 0xA#64, 1#64, 2#64, 3#64⟩, ⟨7#64, 0#64, 0#64, 0#64⟩⟩ := ⟨by decide, rfl⟩

/-- For the two statements about every step, from ports whose outputs are not settled. -/
theorem witness_EveryStep : step (ports 4#4 0x21C00007#64 0#64 0#64 0#64) =
    .next ⟨⟨4#4, 0x21C00007#64, 0#64, 0#64, 0#64⟩, ⟨0x87000000#64, 0#64, 0#64, 0#64⟩⟩ := rfl

theorem witness_DecodedRequestIsTheEncodingUpToIgnoredBits :
    decode ⟨7#4, 0xA#64, 1#64, 2#64, 3#64⟩ = .instr (.permcls 2#3) := by decide

theorem witness_PageNumberIsMadeOfTheIndices : (0x7FFFFFFFFF#64).toNat < 2 ^ 39 := by decide

theorem witness_DecomposeThenComposeReturnsTheAddress : (0x7FFFFFFFFF#64).toNat < 2 ^ 39 := by decide

theorem witness_ComposeThenDecomposeReturnsTheFields :
    (0x1FF#64).toNat < 512 ∧ (0xFFF#64).toNat < 4096 := by decide

/-- Both sides of the canonical clause: bit 8 of the top index clear and set. -/
theorem witness_InContractComposeIsTheSumAndNotSignExtended :
    (Instr.compose 0xFF#64 0x1FF#64 0x1FF#64 0xFFF#64).inContract = true ∧
    (Instr.compose 0x100#64 0#64 0#64 0#64).inContract = true := by decide

/-- V-CO-14, V-CO-16, V-CO-18: the first lost bit of each operand. -/
theorem witness_ComposeLosesTheBitsShiftedOut :
    (∀ i, i < 34 → (0#64).getLsbD i = (0x400000000#64).getLsbD i) ∧
    (∀ i, i < 43 → (0#64).getLsbD i = (0x80000000000#64).getLsbD i) ∧
    (∀ i, i < 52 → (0#64).getLsbD i = (0x10000000000000#64).getLsbD i) := by decide

/-- For the statements about an in-contract `PTEBUILD`: the largest frame with every flag. -/
theorem witness_InContractEntry : (Instr.ptebuild 0xFFFFFFFFFFF000#64 0x3FF#64).inContract = true := by decide

theorem witness_PteaddrNeedsNoChoiceOfMask :
    Config.ppnMaskAdmissible 0x00FFFFFFFFFFFC00#64 = true ∧ (0x3FFFFFFFFFFFFF#64).toNat < 2 ^ 54 := by decide

/-- For the statements whose premise is a flag set within bits 9:0. -/
theorem witness_FlagSetInRegion : (0x3FF#64).toNat < 2 ^ 10 := by decide

theorem witness_PteleafIsTheTestOfThreeBits :
    (0x2#64).extractLsb' 1 3 = (0xFFFFFFFFFFFFFFF3#64).extractLsb' 1 3 := by decide

theorem witness_ResultsDoNotConsultTheValidBit : (0x2#64).getLsbD 0 = false := by decide

theorem witness_ClassThroughTheCodecReadsBack :
    alignedFrame 0xFFFFFFFFFFF000#64 = true ∧ inPhysicalSpace 0xFFFFFFFFFFF000#64 = true := by decide

/-- A safe run (Safety.lean): program P1 with its duties kept, and the same with a reserved code in it. -/
theorem test_safe_run :
    let p1 : List Request := [⟨0#4, 0x3FC0201ABC#64, 0#64, 0#64, 0#64⟩, ⟨7#4, 2#64, 0#64, 0#64, 0#64⟩,
      ⟨3#4, 0x80200000#64, 7#64, 0#64, 0#64⟩, ⟨5#4, 0x20080007#64, 1#64, 0#64, 0#64⟩, ⟨6#4, 0x20080007#64, 0#64, 0#64, 0#64⟩]
    safeRun p1 = true ∧ safeRun (p1 ++ [⟨9#4, 0#64, 0#64, 0#64, 0#64⟩]) = false := by decide

end Sys2Proof.Tests
end

section
/-! Proofs for the statements of 10_state.md. A step answers `eval` of the request on the ports (R27), so a run of the
caller is a map of `answerOf` over its requests, from whatever ports it starts. -/

namespace Sys2Proof.Machine

/-- A request that selects an operation is answered, with `eval` of it. -/
theorem step_eq_drive_eval {s : State} {i : Instr} (hd : decode s.req = .instr i) :
    step s = .next (s.drive (eval s.req)) := by
  obtain ⟨y, hy⟩ := exec_answers i
  rw [step_of_instr hd, hy, eval_of_exec hd hy]

/-- R27: a step that answers leaves the input ports and puts `eval` of them on the output ports. -/
theorem eq_drive_eval_of_step {s t : State} (h : step s = .next t) : t = s.drive (eval s.req) := by
  obtain ⟨i, y, hd, rfl, hy⟩ := step_next_cases h
  rw [eval_of_exec hd hy]

/-- R27: from any other ports with the same request, a step answers the same response. -/
theorem step_of_same_req {s s' t : State} (hreq : s.req = s'.req) (h : step s = .next t) :
    step s' = .next (s'.drive t.resp) := by
  obtain ⟨i, y, hd, rfl, hy⟩ := step_next_cases h
  rw [step_of_instr (hreq ▸ hd), hy, drive_resp]

/-- What the caller reads after driving a request: `eval` of it, or nothing for a reserved code (U1). -/
def answerOf (r : Request) : Option Response :=
  match decode r with
  | .instr _ => some (eval r)
  | .reserved _ => none

/-- R27 along a run: the answers are those of the requests, each on its own. -/
theorem answersTo_eq_map (s : State) (rs : List Request) : answersTo s rs = rs.map answerOf := by
  induction rs generalizing s with
  | nil => rfl
  | cons r rs ih =>
    cases hd : decode r with
    | instr i =>
      have hstep : step (s.issue r) = .next ((s.issue r).drive (eval r)) := step_eq_drive_eval (s := s.issue r) hd
      simp [answersTo, hstep, ih, answerOf, hd]
    | reserved op =>
      have hstep : step (s.issue r) = .refused (.reservedOp op) := step_of_reserved (s := s.issue r) hd
      simp [answersTo, hstep, ih, answerOf, hd]

/-- The last answer of a run is the answer to its last request. -/
theorem getLast?_answersTo (s : State) (before : List Request) (r : Request) :
    (answersTo s (before ++ [r])).getLast? = some (answerOf r) := by
  simp [answersTo_eq_map]

/-- Settles O13: each clause is R27 read off `step_next_cases`, the last one along a run. -/
theorem responseDependsOnTheRequestAlone : Obligations.ResponseDependsOnTheRequestAlone :=
  ⟨fun _ _ => eq_drive_eval_of_step, fun _ _ _ => step_of_same_req,
    fun s s' before before' r => by rw [getLast?_answersTo s, getLast?_answersTo s']⟩

end Sys2Proof.Machine
end

section
/-! Proofs for the statements of 40_address_decomposer.md. From the ports, a request runs its operation on its operand
ports (R71, R73); the fields of R41 and the page number of R44 then give the formulas of R90 and R91. -/

namespace Sys2Proof.Machine

/-- A request whose code selects an operation runs that operation on the operand ports. -/
theorem step_issue_of_ofOp {r : Request} {o : Opcode} (h : Opcode.ofOp r.op = some o) (s : State) :
    step (s.issue r) = exec (o.withOperands r) (s.issue r) :=
  step_of_instr (by rw [issue_req, decode_of_ofOp h])

theorem fieldOf_idxMask (la : Word) (n : Nat) : fieldOf la n Config.IDX_MASK = (la >>> n) &&& 0x1FF#64 := rfl

theorem pgoffOf_eq_and (la : Word) : pgoffOf la = la &&& 0xFFF#64 := rfl

theorem pageNumber_eq_ushiftRight (v : Word) : pageNumber v = v >>> 12 := rfl

/-- R90: `DECOMP` drives the four fields by the formulas of the spec. -/
theorem exec_decomp_formula (la : Word) (s : State) :
    exec (.decomp la) s = .next (s.drive
      ⟨(la >>> 30) &&& 0x1FF#64, (la >>> 21) &&& 0x1FF#64, (la >>> 12) &&& 0x1FF#64, la &&& 0xFFF#64⟩) := by
  rw [exec_decomp, pgoffOf_eq_and]
  simp only [pdpxOf, pdxOf, ptxOf, fieldOf_idxMask, Config.PDPXSHIFT, Config.PDXSHIFT, Config.PTXSHIFT]

/-- R91: `FRAMENO` drives the bare shift on `y0`. -/
theorem exec_frameno_formula (la : Word) (s : State) :
    exec (.frameno la) s = .next (s.drive (onY0 (la >>> 12))) := by
  rw [exec_frameno, pageNumber_eq_ushiftRight]

/-- Settles O1: R90's formulas, as an operation and through the code `0x0`. -/
theorem decompAnswersItsFourFields : Obligations.DecompAnswersItsFourFields := by
  refine ⟨exec_decomp_formula, fun a b c d s => ?_⟩
  have code : Opcode.ofOp 0x0#4 = some .DECOMP := ofOp_code .DECOMP
  rw [step_issue_of_ofOp code]
  exact exec_decomp_formula a _

/-- Settles O2: R91's shift, as an operation and through the code `0x2`. -/
theorem framenoAnswersThePageNumber : Obligations.FramenoAnswersThePageNumber := by
  refine ⟨exec_frameno_formula, fun a b c d s => ?_⟩
  have code : Opcode.ofOp 0x2#4 = some .FRAMENO := ofOp_code .FRAMENO
  rw [step_issue_of_ofOp code]
  exact exec_frameno_formula a _

end Sys2Proof.Machine
end

section
/-! Proofs for the statements of 41_address_composer.md. The four fields of R41 tile bits 38:0 of an address, so composing
the fields of an address copies those bits (R103), and each field of a composed address ORs the operand bits that fall into
it (R104); R101 and R102 are the cases in which nothing is cut off and nothing overlaps. -/

namespace Sys2Proof.Machine

/-- A word below `2 ^ n` is its low `n` bits. -/
theorem decide_and_getLsbD_of_toNat_lt {v : Word} {n : Nat} (h : v.toNat < 2 ^ n) (i : Nat) :
    (decide (i < n) && v.getLsbD i) = v.getLsbD i := by
  by_cases hi : i < n
  · simp [hi]
  · simp [hi, getLsbD_eq_false_of_toNat_lt v n h i (Nat.not_lt.mp hi)]

/-- R103: composing the fields of an address gives its bits 38:0 back, each bit from the one field it lies in. -/
theorem getLsbD_composeAddress_fields (la : Word) (i : Nat) :
    (composeAddress (pdpxOf la) (pdxOf la) (ptxOf la) (pgoffOf la)).getLsbD i = (decide (i < 39) && la.getLsbD i) := by
  rw [getLsbD_composeAddress, getLsbD_pdpxOf, getLsbD_pdxOf, getLsbD_ptxOf, getLsbD_pgoffOf]
  by_cases offset : i < 12
  · simp [offset, show i < 21 by omega, show i < 30 by omega, show i < 39 by omega]
  have fromPtx : 12 + (i - 12) = i := by omega
  by_cases ptx : i < 21
  · simp [offset, ptx, fromPtx, show i < 64 by omega, show i - 12 < 9 by omega, show i < 30 by omega,
      show i < 39 by omega]
  have fromPdx : 21 + (i - 21) = i := by omega
  by_cases pdx : i < 30
  · simp [offset, ptx, pdx, fromPdx, show i < 64 by omega, show i - 21 < 9 by omega, show ¬ i - 12 < 9 by omega,
      show i < 39 by omega]
  have fromPdpx : 30 + (i - 30) = i := by omega
  by_cases pdpx : i < 39
  · simp [offset, pdx, pdpx, fromPdpx, show i < 64 by omega, show i - 30 < 9 by omega, show ¬ i - 21 < 9 by omega,
      show ¬ i - 12 < 9 by omega]
  · simp [offset, pdpx, show ¬ i - 30 < 9 by omega, show ¬ i - 21 < 9 by omega, show ¬ i - 12 < 9 by omega]

/-- R101: composing the fields of an address below `2 ^ 39` gives the address. -/
theorem composeAddress_fields_of_lt {la : Word} (h : la.toNat < 2 ^ 39) :
    composeAddress (pdpxOf la) (pdxOf la) (ptxOf la) (pgoffOf la) = la := by
  apply word_ext
  intro i _
  rw [getLsbD_composeAddress_fields]
  exact decide_and_getLsbD_of_toNat_lt h i

/-! R104, one lemma a field: the operand bits that fall into it. -/

theorem getLsbD_pdpxOf_composeAddress (p d t o : Word) (i : Nat) : (pdpxOf (composeAddress p d t o)).getLsbD i =
    (decide (i < 9) && (p.getLsbD i || d.getLsbD (9 + i) || t.getLsbD (18 + i) || o.getLsbD (30 + i))) := by
  rw [getLsbD_pdpxOf, getLsbD_composeAddress]
  by_cases hi : i < 9
  · simp [hi, show 30 + i < 64 by omega, show ¬ 30 + i < 21 by omega, show ¬ 30 + i < 12 by omega,
      show 30 + i - 21 = 9 + i by omega, show 30 + i - 12 = 18 + i by omega]
  · simp [hi]

theorem getLsbD_pdxOf_composeAddress (p d t o : Word) (i : Nat) : (pdxOf (composeAddress p d t o)).getLsbD i =
    (decide (i < 9) && (d.getLsbD i || t.getLsbD (9 + i) || o.getLsbD (21 + i))) := by
  rw [getLsbD_pdxOf, getLsbD_composeAddress]
  by_cases hi : i < 9
  · simp [hi, show 21 + i < 64 by omega, show 21 + i < 30 by omega, show ¬ 21 + i < 12 by omega,
      show 21 + i - 12 = 9 + i by omega]
  · simp [hi]

theorem getLsbD_ptxOf_composeAddress (p d t o : Word) (i : Nat) : (ptxOf (composeAddress p d t o)).getLsbD i =
    (decide (i < 9) && (t.getLsbD i || o.getLsbD (12 + i))) := by
  rw [getLsbD_ptxOf, getLsbD_composeAddress]
  by_cases hi : i < 9
  · simp [hi, show 12 + i < 64 by omega, show 12 + i < 21 by omega, show 12 + i < 30 by omega]
  · simp [hi]

theorem getLsbD_pgoffOf_composeAddress (p d t o : Word) (i : Nat) : (pgoffOf (composeAddress p d t o)).getLsbD i =
    (decide (i < 12) && o.getLsbD i) := by
  rw [getLsbD_pgoffOf, getLsbD_composeAddress]
  by_cases hi : i < 12
  · simp [hi, show i < 21 by omega, show i < 30 by omega]
  · simp [hi]

section InRange

variable {p d t o : Word}

/-! R102, one lemma a field: the operands that could overlap into it are within their widths. -/

theorem pdpxOf_composeAddress (hp : p.toNat < 2 ^ 9) (hd : d.toNat < 2 ^ 9) (ht : t.toNat < 2 ^ 9)
    (ho : o.toNat < 2 ^ 12) : pdpxOf (composeAddress p d t o) = p := by
  apply word_ext
  intro i _
  have fromPdx := getLsbD_eq_false_of_toNat_lt d 9 hd (9 + i) (by omega)
  have fromPtx := getLsbD_eq_false_of_toNat_lt t 9 ht (18 + i) (by omega)
  have fromOffset := getLsbD_eq_false_of_toNat_lt o 12 ho (30 + i) (by omega)
  rw [getLsbD_pdpxOf_composeAddress, fromPdx, fromPtx, fromOffset]
  simpa using decide_and_getLsbD_of_toNat_lt hp i

theorem pdxOf_composeAddress (hd : d.toNat < 2 ^ 9) (ht : t.toNat < 2 ^ 9) (ho : o.toNat < 2 ^ 12) :
    pdxOf (composeAddress p d t o) = d := by
  apply word_ext
  intro i _
  have fromPtx := getLsbD_eq_false_of_toNat_lt t 9 ht (9 + i) (by omega)
  have fromOffset := getLsbD_eq_false_of_toNat_lt o 12 ho (21 + i) (by omega)
  rw [getLsbD_pdxOf_composeAddress, fromPtx, fromOffset]
  simpa using decide_and_getLsbD_of_toNat_lt hd i

theorem ptxOf_composeAddress (ht : t.toNat < 2 ^ 9) (ho : o.toNat < 2 ^ 12) : ptxOf (composeAddress p d t o) = t := by
  apply word_ext
  intro i _
  have fromOffset := getLsbD_eq_false_of_toNat_lt o 12 ho (12 + i) (by omega)
  rw [getLsbD_ptxOf_composeAddress, fromOffset]
  simpa using decide_and_getLsbD_of_toNat_lt ht i

theorem pgoffOf_composeAddress (ho : o.toNat < 2 ^ 12) : pgoffOf (composeAddress p d t o) = o := by
  apply word_ext
  intro i _
  rw [getLsbD_pgoffOf_composeAddress]
  exact decide_and_getLsbD_of_toNat_lt ho i

end InRange

/-- Settles O28: both operations answer, and R101 is about the words they answer with. -/
theorem decomposeThenComposeReturnsTheAddress : Obligations.DecomposeThenComposeReturnsTheAddress :=
  fun la s h => ⟨_, _, exec_decomp la s, exec_compose _ _ _ _ _, composeAddress_fields_of_lt h⟩

/-- Settles O29: both operations answer, and the response is the operands field by field (R102). -/
theorem composeThenDecomposeReturnsTheFields : Obligations.ComposeThenDecomposeReturnsTheFields := by
  intro p d t o s hp hd ht ho
  refine ⟨_, _, exec_compose p d t o s, exec_decomp _ _, ?_⟩
  rw [drive_resp, drive_resp, onY0_y0, pdpxOf_composeAddress hp hd ht ho, pdxOf_composeAddress hd ht ho,
    ptxOf_composeAddress ht ho, pgoffOf_composeAddress ho]

end Sys2Proof.Machine
end

section
/-! Proofs for the statements of 42_pte_codec.md. `PTELEAF` is the flag test with the mask of R, W and X, so R113's
formula is the answer of that test (R26, R112) with the mask written out. -/

namespace Sys2Proof.Machine

/-- R26, R112: the word a flag test drives. -/
theorem boolWord_anyBitOf (pte mask : Word) :
    boolWord (anyBitOf pte mask) = if pte &&& mask = 0#64 then 0#64 else 1#64 := by
  by_cases h : pte &&& mask = 0#64
  · simp [anyBitOf, h]
  · simp [anyBitOf, h]

/-- R113: the leaf test drives 0 exactly when R, W and X, bits 1 to 3, are all clear. -/
theorem boolWord_isLeaf (e : Word) : boolWord (isLeaf e) = if e &&& 0x00E#64 = 0#64 then 0#64 else 1#64 :=
  boolWord_anyBitOf e Config.PTE_RWX_MASK

/-- R113: `PTELEAF` drives the test of R, W and X on `y0`; no other bit of the entry counts. -/
theorem exec_pteleaf_formula (e : Word) (s : State) :
    exec (.pteleaf e) s = .next (s.drive (onY0 (if e &&& 0x00E#64 = 0#64 then 0#64 else 1#64))) := by
  rw [exec_pteleaf, boolWord_isLeaf]

/-- Settles O7: R113's test, as an operation and through the code `0x6`. -/
theorem pteleafReportsReadWriteExecute : Obligations.PteleafReportsReadWriteExecute := by
  refine ⟨exec_pteleaf_formula, fun a b c d s => ?_⟩
  have code : Opcode.ofOp 0x6#4 = some .PTELEAF := ofOp_code .PTELEAF
  rw [step_issue_of_ofOp code]
  exact exec_pteleaf_formula a _

end Sys2Proof.Machine
end

section
/-! SUPPORT for the statements below: masks of low bits, multiples and bounds as statements about bits, and the widths
of the fields (R74). -/

namespace Sys2Proof.Machine

section LowMask

variable {mask : Word} {n : Nat}

/-- A mask of the low `n` bits takes the remainder by `2 ^ n`. -/
theorem toNat_and_lowMask (hmask : mask.toNat = 2 ^ n - 1) (v : Word) : (v &&& mask).toNat = v.toNat % 2 ^ n := by
  rw [BitVec.toNat_and, hmask, Nat.and_two_pow_sub_one_eq_mod]

theorem getLsbD_lowMask (hmask : mask.toNat = 2 ^ n - 1) (i : Nat) : mask.getLsbD i = decide (i < n) := by
  rw [← BitVec.testBit_toNat, hmask, Nat.testBit_two_pow_sub_one]

theorem getLsbD_and_lowMask (hmask : mask.toNat = 2 ^ n - 1) (v : Word) (i : Nat) :
    (v &&& mask).getLsbD i = (decide (i < n) && v.getLsbD i) := by
  rw [BitVec.getLsbD_and, getLsbD_lowMask hmask, Bool.and_comm]

/-- The complement of a mask of the low `n` bits clears those. -/
theorem getLsbD_and_not_lowMask (hmask : mask.toNat = 2 ^ n - 1) (v : Word) (i : Nat) :
    (v &&& ~~~mask).getLsbD i = (decide (n ≤ i) && v.getLsbD i) := by
  rw [BitVec.getLsbD_and, BitVec.getLsbD_not, getLsbD_lowMask hmask]
  by_cases h : i < 64
  · by_cases hi : i < n
    · simp [hi, Nat.not_le.mpr hi]
    · simp [h, hi, Nat.not_lt.mp hi]
  · simp [getLsbD_of_ge_64 v (Nat.not_lt.mp h)]

/-- A mask of low bits that is wide enough for a word changes nothing. -/
theorem and_lowMask_of_toNat_lt (hmask : mask.toNat = 2 ^ n - 1) {v : Word} (h : v.toNat < 2 ^ n) : v &&& mask = v :=
  BitVec.eq_of_toNat_eq (by rw [toNat_and_lowMask hmask, Nat.mod_eq_of_lt h])

end LowMask

/-- Multiples of `2 ^ n` are the words with the low `n` bits clear. -/
theorem toNat_mod_two_pow_eq_zero_iff (v : Word) (n : Nat) :
    v.toNat % 2 ^ n = 0 ↔ ∀ i, i < n → v.getLsbD i = false := by
  constructor
  · intro h i hi
    simpa [h, hi, BitVec.testBit_toNat] using (Nat.testBit_mod_two_pow v.toNat n i).symm
  · intro h
    apply Nat.eq_of_testBit_eq
    intro i
    rw [Nat.testBit_mod_two_pow, Nat.zero_testBit]
    by_cases hi : i < n
    · simp [hi, BitVec.testBit_toNat, h i hi]
    · simp [hi]

/-! The widths of the fields (R74). -/

theorem toNat_index_lt (la : Word) (n : Nat) : (fieldOf la n Config.IDX_MASK).toNat < 2 ^ 9 :=
  toNat_lt_of_getLsbD _ 9 fun i hi => by simp [getLsbD_index, Nat.not_lt.mpr hi]

theorem toNat_pgoffOf_lt (la : Word) : (pgoffOf la).toNat < 2 ^ 12 :=
  toNat_lt_of_getLsbD _ 12 fun i hi => by simp [getLsbD_pgoffOf, Nat.not_lt.mpr hi]

theorem toNat_pageNumber_lt (v : Word) : (pageNumber v).toNat < 2 ^ 52 :=
  toNat_lt_of_getLsbD _ 52 fun i hi => by rw [getLsbD_pageNumber, getLsbD_of_ge_64 v (by omega)]

/-- R111: a frame address lies in the 56-bit physical space. -/
theorem toNat_extractFrameAddress_lt (e : Word) : (extractFrameAddress e).toNat < 2 ^ 56 :=
  toNat_lt_of_getLsbD _ 56 fun i hi => by
    simp [getLsbD_extractFrameAddress, show ¬ (12 ≤ i ∧ i < 56) by omega]

/-- R111: a frame address is page-aligned. -/
theorem toNat_extractFrameAddress_mod (e : Word) : (extractFrameAddress e).toNat % 2 ^ 12 = 0 :=
  (toNat_mod_two_pow_eq_zero_iff _ 12).mpr fun i hi => by
    simp [getLsbD_extractFrameAddress, Nat.not_le.mpr hi]

theorem toNat_classBits_lt : ∀ k : ClassIndex, (classBits k).toNat < 2 ^ 10 := by decide

end Sys2Proof.Machine
end


section
/-! Proofs for the statements of 30_encoding.md. An instruction comes from a request exactly when the code selects its
operation and the operand ports give its operands (R71, R73); clearing the ignored bits is encoding what was decoded.
-/

namespace Sys2Proof

/-! The request vector of R70: concatenating the ports and slicing them off undo one another. -/

open BitVec in
theorem ofVector_toVector (r : Request) : Request.ofVector r.toVector = r := by
  obtain ⟨op, a, b, c, d⟩ := r
  simp only [Request.ofVector, Request.toVector, Request.mk.injEq]
  refine ⟨?_, ?_, ?_, ?_, extractLsb'_append_eq_right⟩
  · exact (extractLsb'_append_eq_of_le (by decide)).trans ((extractLsb'_append_eq_of_le (by decide)).trans
      ((extractLsb'_append_eq_of_le (by decide)).trans extractLsb'_append_eq_left))
  · exact (extractLsb'_append_eq_of_le (by decide)).trans ((extractLsb'_append_eq_of_le (by decide)).trans
      ((extractLsb'_append_eq_of_le (by decide)).trans extractLsb'_append_eq_right))
  · exact (extractLsb'_append_eq_of_le (by decide)).trans ((extractLsb'_append_eq_of_le (by decide)).trans
      extractLsb'_append_eq_right)
  · exact (extractLsb'_append_eq_of_le (by decide)).trans extractLsb'_append_eq_right

theorem toVector_ofVector (v : BitVec 260) : (Request.ofVector v).toVector = v := by
  simp only [Request.toVector, Request.ofVector, BitVec.extractLsb'_append_extractLsb'_eq_extractLsb',
    BitVec.extractLsb'_eq_self]

/-- Every instruction is what its encoding decodes to. -/
theorem decode_encode : ∀ i : Instr, decode (encode i) = .instr i
  | .decomp la => (Laws.RoundTrip.decomp la).2
  | .compose p d t o => (Laws.RoundTrip.compose p d t o).2
  | .frameno la => (Laws.RoundTrip.frameno la).2
  | .ptebuild f c => (Laws.RoundTrip.ptebuild f c).2
  | .pteaddr e => (Laws.RoundTrip.pteaddr e).2
  | .pteflag e b => (Laws.RoundTrip.pteflag e b).2
  | .pteleaf e => (Laws.RoundTrip.pteleaf e).2
  | .permcls k => (Laws.RoundTrip.permcls k).2

/-- All that decoding can do: the code selects an operation, whose operands are read from the ports, or is reserved. -/
theorem decode_cases (r : Request) :
    (∃ o, Opcode.ofOp r.op = some o ∧ decode r = .instr (o.withOperands r)) ∨
      (Opcode.ofOp r.op = none ∧ decode r = .reserved r.op) := by
  cases h : Opcode.ofOp r.op with
  | some o => exact .inl ⟨o, rfl, decode_of_ofOp h⟩
  | none => exact .inr ⟨rfl, decode_of_reserved h⟩

theorem decode_eq_instr_iff (r : Request) (i : Instr) :
    decode r = .instr i ↔ ∃ o, Opcode.ofOp r.op = some o ∧ o.withOperands r = i := by
  constructor
  · intro h
    obtain ⟨o, ho, hd⟩ | ⟨-, hd⟩ := decode_cases r
    · exact ⟨o, ho, Decoded.instr.inj (hd.symm.trans h)⟩
    · rw [hd] at h
      cases h
  · rintro ⟨o, ho, rfl⟩
    exact decode_of_ofOp ho

/-- The code of a request that decodes to an instruction is the instruction's. -/
theorem ofOp_of_decode {r : Request} {i : Instr} (h : decode r = .instr i) : Opcode.ofOp r.op = some i.opcode := by
  obtain ⟨o, ho, rfl⟩ := (decode_eq_instr_iff r i).mp h
  rw [ho, opcode_withOperands]

/-- R76: reading the class index keeps bits 2:0 of the port and no others. -/
theorem setWidth_classIndexOf (a : Word) : (classIndexOf a).setWidth 64 = a &&& 7#64 := by
  apply BitVec.eq_of_toNat_eq
  rw [Machine.toNat_and_lowMask (n := 3) rfl, classIndexOf, BitVec.toNat_setWidth, BitVec.toNat_setWidth]
  omega

/-- R73, R76: encoding the instruction read from the ports clears the bits that its operation ignores. -/
theorem encode_withOperands {r : Request} {o : Opcode} (h : Opcode.ofOp r.op = some o) :
    encode (o.withOperands r) = r.clearIgnored := by
  obtain ⟨op, a, b, c, d⟩ := r
  obtain rfl : op = o.code := code_of_ofOp op o h
  rw [Request.clearIgnored, ofOp_code]
  cases o with
  | PERMCLS => simp only [Opcode.withOperands, encode, Opcode.code, setWidth_classIndexOf]
  | DECOMP | COMPOSE | FRAMENO | PTEBUILD | PTEADDR | PTEFLAG | PTELEAF => rfl

theorem encode_of_decode {r : Request} {i : Instr} (h : decode r = .instr i) : encode i = r.clearIgnored := by
  obtain ⟨o, ho, rfl⟩ := (decode_eq_instr_iff r i).mp h
  exact encode_withOperands ho

/-- R75: a reserved request keeps only its code. -/
theorem clearIgnored_of_reserved {r : Request} (h : Opcode.ofOp r.op = none) :
    r.clearIgnored = ⟨r.op, 0#64, 0#64, 0#64, 0#64⟩ := by
  simp [Request.clearIgnored, h]

/-- R26: decoding does not read the ignored bits. -/
theorem decode_clearIgnored (r : Request) : decode r.clearIgnored = decode r := by
  obtain ⟨o, ho, hd⟩ | ⟨hr, hd⟩ := decode_cases r
  · rw [← encode_withOperands ho, decode_encode, hd]
  · rw [clearIgnored_of_reserved hr, hd]
    exact decode_of_reserved hr

/-- Requests decode alike exactly when they agree in every bit their operation uses. -/
theorem decode_eq_iff_clearIgnored_eq (r r' : Request) : decode r = decode r' ↔ r.clearIgnored = r'.clearIgnored := by
  constructor
  · intro h
    obtain ⟨o, -, hd⟩ | ⟨hr, hd⟩ := decode_cases r
    · rw [← encode_of_decode hd, ← encode_of_decode (h ▸ hd)]
    · obtain ⟨o', -, hd'⟩ | ⟨hr', hd'⟩ := decode_cases r'
      · rw [hd, hd'] at h
        cases h
      · have hop : r.op = r'.op := Decoded.reserved.inj (by rw [← hd, ← hd', h])
        rw [clearIgnored_of_reserved hr, clearIgnored_of_reserved hr', hop]
  · intro h
    rw [← decode_clearIgnored r, h, decode_clearIgnored r']

/-- Settles O20: the vector holds the encoded ports whole, and they decode to the instruction. -/
theorem encodedVectorDecodesToTheInstruction : Obligations.EncodedVectorDecodesToTheInstruction :=
  ⟨fun i => by rw [ofVector_toVector, decode_encode], ofVector_toVector, toVector_ofVector⟩

/-- Settles O21: clearing the ignored bits is encoding what was decoded, and keeps what is decoded. -/
theorem decodedRequestIsTheEncodingUpToIgnoredBits : Obligations.DecodedRequestIsTheEncodingUpToIgnoredBits :=
  ⟨fun _ _ => encode_of_decode, decode_eq_iff_clearIgnored_eq⟩

/-- R72, R75: the codes of the operations are those below 8. -/
theorem isSome_ofOp_iff : ∀ op : Op, (Opcode.ofOp op).isSome = true ↔ op.toNat < 8 := by decide

/-- R75: codes 8 to 15 select nothing. -/
theorem ofOp_of_reserved {op : Op} (h : 8 ≤ op.toNat) : Opcode.ofOp op = none := by
  have : ¬ (Opcode.ofOp op).isSome = true := by
    rw [isSome_ofOp_iff]
    omega
  simpa using this

/-- Settles O11: the code alone selects the operation (R71), and the operands are then read whatever they are. -/
theorem codeAloneDecidesWhetherRequestIsReserved : Obligations.CodeAloneDecidesWhetherRequestIsReserved := by
  refine fun r => ⟨fun h => ?_, fun h => decode_of_reserved (ofOp_of_reserved h)⟩
  obtain ⟨o, ho⟩ := Option.isSome_iff_exists.mp ((isSome_ofOp_iff r.op).mpr h)
  exact ⟨_, decode_of_ofOp ho, by rw [opcode_withOperands, code_of_ofOp r.op o ho]⟩

/-- Settles O19: the table decoder run on each word of the statement. -/
theorem writtenOutCodesDecode : Obligations.WrittenOutCodesDecode := by
  unfold Obligations.WrittenOutCodesDecode
  decide

namespace Machine

/-- R79: operands written as numbers stand for those numbers. -/
theorem operandValues_numbers (env : Env) (o : Opcode) (ws : List Word) :
    operandValues env o (ws.map .number) = some ws := by
  induction ws with
  | nil => rfl
  | cons w ws ih => simp [operandValues, OperandText.value, ih]

/-- R73, R79: numbers, as many as the operation has operands, are put on the ports in order. -/
theorem assemble_numbers (env : Env) (o : Opcode) (ws : List Word) (hlen : ws.length = operandCount o) :
    assemble env ⟨o, ws.map .number⟩ =
      some ⟨o.code, ws[0]?.getD 0#64, ws[1]?.getD 0#64, ws[2]?.getD 0#64, ws[3]?.getD 0#64⟩ := by
  simp [assemble, operandValues_numbers, hlen]

/-- R79: the text of an instruction assembles to its encoding, operation by operation. -/
theorem assemble_textOf (env : Env) (i : Instr) : assemble env (textOf i) = some (encode i) := by
  cases i with
  | decomp la => exact assemble_numbers env .DECOMP [la] rfl
  | compose p d t o => exact assemble_numbers env .COMPOSE [p, d, t, o] rfl
  | frameno la => exact assemble_numbers env .FRAMENO [la] rfl
  | ptebuild f c => exact assemble_numbers env .PTEBUILD [f, c] rfl
  | pteaddr e => exact assemble_numbers env .PTEADDR [e] rfl
  | pteflag e b => exact assemble_numbers env .PTEFLAG [e, b] rfl
  | pteleaf e => exact assemble_numbers env .PTELEAF [e] rfl
  | permcls k => exact assemble_numbers env .PERMCLS [k.setWidth 64] rfl

/-- Settles O22: a class name has the value that its number would have in the same place. -/
theorem writtenInstructionAssemblesToItsEncoding : Obligations.WrittenInstructionAssemblesToItsEncoding :=
  ⟨assemble_textOf, fun env k => assemble_textOf env (.permcls k.index),
    fun env f k => assemble_textOf env (.ptebuild f k.bits)⟩

end Machine

end Sys2Proof
end

section
/-! Proofs for the statements of 10_state.md on steps from any ports, on ignored bits, reset and instances, and for
those of 60_exceptions.md. All follow from what one step can do (`decode_cases`, `step_next_cases`) and from R27. -/

namespace Sys2Proof.Machine

/-- R74: what an operation answers is within the widths of its row, operation by operation. -/
theorem responseFits_of_exec {i : Instr} {s : State} {y : Response} (h : exec i s = .next (s.drive y)) :
    ResponseFits i.opcode.code y := by
  rw [ResponseFits, ofOp_code]
  cases i <;> obtain rfl := (next_drive_inj _ _ _).mp h
  case decomp la => exact ⟨toNat_index_lt la _, toNat_index_lt la _, toNat_index_lt la _, toNat_pgoffOf_lt la⟩
  case compose => exact ⟨rfl, rfl, rfl⟩
  case frameno la => exact ⟨toNat_pageNumber_lt la, rfl, rfl, rfl⟩
  case ptebuild => exact ⟨rfl, rfl, rfl⟩
  case pteaddr e => exact ⟨toNat_extractFrameAddress_lt e, toNat_extractFrameAddress_mod e, rfl, rfl, rfl⟩
  case pteflag => exact ⟨boolWord_eq_zero_or_one _, rfl, rfl, rfl⟩
  case pteleaf => exact ⟨boolWord_eq_zero_or_one _, rfl, rfl, rfl⟩
  case permcls k => exact ⟨toNat_classBits_lt k, rfl, rfl, rfl⟩

/-- Settles O17: a step drives `eval` of the request (R27), so the next step drives the same again. -/
theorem everyStepSettlesThePortsAndIsIdempotent : Obligations.EveryStepSettlesThePortsAndIsIdempotent := by
  intro s t h
  have ht : t = s.drive (eval s.req) := eq_drive_eval_of_step h
  have hreq : t.req = s.req := by rw [ht, drive_req]
  have hresp : t.resp = eval t.req := by rw [hreq, ht, drive_resp]
  exact ⟨hreq, hresp, step_of_same_req hreq.symm h⟩

/-- Settles O18: the step's operation is the one of the code on the ports, and its answer fits that operation's row. -/
theorem everyStepKeepsResponseWidths : Obligations.EveryStepKeepsResponseWidths := by
  intro s t h
  obtain ⟨i, y, hd, rfl, hy⟩ := step_next_cases h
  have hop : s.req.op = i.opcode.code := code_of_ofOp _ _ (ofOp_of_decode hd)
  rw [drive_req, drive_resp, hop]
  exact responseFits_of_exec (hy s)

/-- A step from reset evaluates `DECOMP 0` and finds its four zeros on the ports. -/
theorem step_reset : step State.reset = .next State.reset := rfl

/-- Settles O16: the reset ports are those after a step, so what holds after every step holds of them. -/
theorem resetPortsAreZeroAndSettled : Obligations.ResetPortsAreZeroAndSettled := by
  obtain ⟨-, settled, -⟩ := everyStepSettlesThePortsAndIsIdempotent _ _ step_reset
  exact ⟨rfl, settled, everyStepKeepsResponseWidths _ _ step_reset⟩

/-- Settles O15: the two requests decode to one instruction, which answers one response from every state. -/
theorem ignoredOperandBitsChangeNothing : Obligations.IgnoredOperandBitsChangeNothing := by
  intro r r' s s' t hclear h
  obtain ⟨i, y, hd, rfl, hy⟩ := step_next_cases h
  have hd' : decode (s'.issue r').req = .instr i := ((decode_eq_iff_clearIgnored_eq r r').mpr hclear).symm.trans hd
  rw [step_of_instr hd', hy]
  rfl

/-- R30: on any instances, each request that names a block that is there is answered as on its own. -/
theorem answersOnInstances_eq_map (blocks : List State) (q : List (Nat × Request))
    (hq : ∀ x ∈ q, x.1 < blocks.length) : answersOnInstances blocks q = q.map fun x => answerOf x.2 := by
  induction q generalizing blocks with
  | nil => rfl
  | cons x q ih =>
    obtain ⟨k, r⟩ := x
    obtain ⟨hk, hrest⟩ := List.forall_mem_cons.mp hq
    have hrest' (t : State) : ∀ x ∈ q, x.1 < (blocks.set k t).length := by simpa using hrest
    have hblock : blocks[k]? = some blocks[k] := List.getElem?_eq_getElem hk
    cases hd : decode r with
    | instr i =>
      have hstep := step_eq_drive_eval (s := blocks[k].issue r) hd
      simp [answersOnInstances, hblock, hstep, ih _ (hrest' _), answerOf, hd]
    | reserved op =>
      have hstep := step_of_reserved (s := blocks[k].issue r) hd
      simp [answersOnInstances, hblock, hstep, ih _ (hrest' _), answerOf, hd]

/-- Settles O14: both runs are the map of `answerOf` over their requests, which are the same up to order. -/
theorem instancesAnswerAsIndependentEvaluations : Obligations.InstancesAnswerAsIndependentEvaluations := by
  intro one blocks blocks' q q' hq hq' hperm
  rw [answersOnInstances_eq_map blocks q hq, answersOnInstances_eq_map blocks' q' hq']
  refine ⟨by simp [answersTo_eq_map, List.map_eq_flatMap], ?_⟩
  simpa [Function.comp_def] using hperm.map answerOf

/-- An opcode-table word that decodes to an instruction puts that instruction's request on the ports. -/
theorem decode_tableRequest_of_decodeTableWord {nbits w : Nat} {i : Instr} (h : decodeTableWord nbits w = some i) :
    decode (tableRequest nbits w) = .instr i := by
  cases hd : decode (tableRequest nbits w) with
  | instr j => simpa [decodeTableWord, hd] using h
  | reserved op => simp [decodeTableWord, hd] at h

/-- Settles O9: a step is `exec` of the decoded instruction, also when a table word put the request there. -/
theorem stepRunsTheDecodedInstruction : Obligations.StepRunsTheDecodedInstruction :=
  ⟨fun _ _ => step_of_instr, fun _ _ _ _ h => step_of_instr (decode_tableRequest_of_decodeTableWord h)⟩

/-- R75, decision D5: the block drives zeros for a reserved request. -/
theorem eval_of_reserved {r : Request} {op : Op} (h : decode r = .reserved op) :
    eval r = Config.reservedOpResponse := by
  simp [eval, h]

/-- Settles O10: a code from 8 up selects nothing, so the step refuses it and `eval` is the zeros of decision D5. -/
theorem reservedCodesAreRefusedByName : Obligations.ReservedCodesAreRefusedByName := by
  intro r s h
  have hd : decode r = .reserved r.op := decode_of_reserved (ofOp_of_reserved h)
  exact ⟨step_of_reserved (s := s.issue r) hd, eval_of_reserved hd⟩

/-- All that a step can do: answer, or refuse a reserved code by name. -/
theorem step_cases (s : State) : (∃ y, step s = .next (s.drive y)) ∨
    (8 ≤ s.req.op.toNat ∧ step s = .refused (.reservedOp s.req.op)) := by
  obtain ⟨o, -, hd⟩ | ⟨hr, hd⟩ := decode_cases s.req
  · exact .inl ⟨_, step_eq_drive_eval hd⟩
  · have hop : ¬ s.req.op.toNat < 8 := by simp [← isSome_ofOp_iff, hr]
    exact .inr ⟨Nat.not_lt.mp hop, step_of_reserved hd⟩

/-- Settles O12: no way a step ends is a fault, and the one refusal is that of a reserved code. -/
theorem noStepFaultsAndEveryOperationAnswers : Obligations.NoStepFaultsAndEveryOperationAnswers := by
  refine ⟨fun s f h => ?_, exec_answers, fun s ρ h => ?_⟩
  · obtain ⟨y, hs⟩ | ⟨-, hs⟩ := step_cases s
    · simp [hs] at h
    · simp [hs] at h
  · obtain ⟨y, hs⟩ | ⟨hop, hs⟩ := step_cases s
    · simp [hs] at h
    · rw [hs] at h
      exact ⟨hop, (Host.Outcome.refused.inj h).symm⟩

end Sys2Proof.Machine
end

section
/-! Proofs for the statement of 70_reset_and_hazards.md section 3: each duty as a condition on the operands, and the
duties of each operation. -/

namespace Sys2Proof

/-- A request is in contract when every duty of its operation is kept. -/
theorem inContract_iff (i : Instr) : i.inContract = true ↔ ∀ p ∈ i.duties, p.2 = true := by
  simp [Instr.inContract, Instr.brokenDuties, List.filter_eq_nil_iff]

/-- H1. -/
theorem alignedFrame_iff (f : Word) : alignedFrame f = true ↔ f.toNat % 4096 = 0 := by
  rw [alignedFrame, beq_iff_eq, ← BitVec.toNat_inj, Machine.toNat_and_lowMask (n := 12) rfl]
  rfl

/-- H2. -/
theorem fieldsInRange_iff (p d t o : Word) :
    fieldsInRange p d t o = true ↔ p.toNat < 512 ∧ d.toNat < 512 ∧ t.toNat < 512 ∧ o.toNat < 4096 := by
  simp [fieldsInRange, and_assoc]

namespace Machine

theorem PteFlag.bit_lt (g : PteFlag) : g.bit < 10 := by cases g <;> decide

/-- The ten flags by their bits (R130). -/
def flagTable : List PteFlag := [.V, .R, .W, .X, .U, .G, .A, .D, .SOFT0, .SOFT1]

theorem getElem?_flagTable_bit (g : PteFlag) : flagTable[g.bit]? = some g := by cases g <;> rfl

/-- R130: every bit of the flag region is a flag's. -/
theorem exists_flag_of_lt (i : Nat) (hi : i < 10) : ∃ g : PteFlag, g.bit = i := by
  have rows : ∀ i, i < 10 → ∃ g ∈ flagTable, g.bit = i := by decide
  exact (rows i hi).imp fun _ h => h.2

/-- R131, R75: every class index but 7 is a class's. -/
theorem ne_reservedIndex_iff (k : ClassIndex) : k ≠ 7#3 ↔ ∃ c : PermClass, k = c.index := by
  have named : ∀ k : ClassIndex, k ≠ 7#3 → ∃ c ∈ classTable, k = c.index := by decide
  constructor
  · exact fun h => (named k h).imp fun _ hc => hc.2
  · rintro ⟨c, rfl⟩
    cases c <;> decide

end Machine

/-- H6: the ten single-flag masks are the masks of the flags. -/
theorem isSingleFlag_iff (b : Word) : isSingleFlag b = true ↔ ∃ g : Machine.PteFlag, b = g.mask := by
  simp only [isSingleFlag, List.any_eq_true, List.mem_range, beq_iff_eq]
  constructor
  · rintro ⟨i, hi, rfl⟩
    obtain ⟨g, rfl⟩ := Machine.exists_flag_of_lt i hi
    exact ⟨g, rfl⟩
  · rintro ⟨g, rfl⟩
    exact ⟨g.bit, g.bit_lt, rfl⟩

/-- H1, H5, H4. -/
theorem inContract_ptebuild_iff (f c : Word) : (Instr.ptebuild f c).inContract = true ↔
    f.toNat % 4096 = 0 ∧ f.toNat < 2 ^ 56 ∧ c.toNat < 2 ^ 10 := by
  simp [inContract_iff, Instr.duties, alignedFrame_iff, inPhysicalSpace, flagsInRegion]

theorem inContract_compose_iff (p d t o : Word) : (Instr.compose p d t o).inContract = true ↔
    p.toNat < 512 ∧ d.toNat < 512 ∧ t.toNat < 512 ∧ o.toNat < 4096 := by
  simp [inContract_iff, Instr.duties, fieldsInRange_iff]

/-- Settles O23: the duties of each operation, one condition each. -/
theorem inContractMeansTheCallersDuties : Obligations.InContractMeansTheCallersDuties := by
  refine ⟨fun la => ⟨rfl, rfl⟩, inContract_compose_iff, inContract_ptebuild_iff, fun e => ⟨?_, ?_⟩, fun e b => ?_,
    fun k => ?_⟩
  · simp [inContract_iff, Instr.duties, entryValid]
  · simp [inContract_iff, Instr.duties, entryValid]
  · have mask : Machine.PteFlag.V.mask = 1#64 := rfl
    simp [inContract_iff, Instr.duties, entryValid, isSingleFlag_iff, mask]
  · simp [inContract_iff, Instr.duties, ← Machine.ne_reservedIndex_iff]

end Sys2Proof
end

section
/-! Proofs for the statements of 40_address_decomposer.md and 41_address_composer.md. The fields of an address are bit
slices (R41), the page number is what is left above the offset (R44), and a composed address is taken apart by R103
and R104. -/

namespace Sys2Proof.Machine

/-! The fields as slices. -/

theorem index_eq_slice (la : Word) (n : Nat) :
    fieldOf la n Config.IDX_MASK = (la.extractLsb' n 9).setWidth 64 := by
  apply word_ext
  intro i hi
  rw [getLsbD_index, BitVec.getLsbD_setWidth, BitVec.getLsbD_extractLsb']
  simp [hi]

theorem pgoffOf_eq_slice (la : Word) : pgoffOf la = (la.extractLsb' 0 12).setWidth 64 := by
  apply word_ext
  intro i hi
  rw [getLsbD_pgoffOf, BitVec.getLsbD_setWidth, BitVec.getLsbD_extractLsb']
  simp [hi]

theorem pageNumber_eq_slice (la : Word) : pageNumber la = (la.extractLsb' 12 52).setWidth 64 := by
  apply word_ext
  intro i hi
  rw [getLsbD_pageNumber, BitVec.getLsbD_setWidth, BitVec.getLsbD_extractLsb']
  by_cases h : i < 52
  · simp [hi, h]
  · simp [h, getLsbD_of_ge_64 la (show 64 ≤ 12 + i by omega)]

/-- Settles O24: each result is its slice. -/
theorem decomposerResultsAreSlices : Obligations.DecomposerResultsAreSlices := by
  intro la s
  rw [exec_decomp, exec_frameno, pgoffOf_eq_slice, pageNumber_eq_slice]
  simp only [pdpxOf, pdxOf, ptxOf, index_eq_slice]
  exact ⟨rfl, rfl⟩

/-- R44, R90: the three indices side by side are the low 27 bits of the page number. -/
theorem pageNumber_and_vpnMask (la : Word) :
    pageNumber la &&& 0x7FFFFFF#64 = (pdpxOf la <<< 18) ||| (pdxOf la <<< 9) ||| ptxOf la := by
  apply word_ext
  intro i hi
  rw [getLsbD_and_lowMask (n := 27) rfl]
  simp only [getLsbD_pageNumber, BitVec.getLsbD_or, BitVec.getLsbD_shiftLeft, getLsbD_pdpxOf, getLsbD_pdxOf,
    getLsbD_ptxOf, hi, decide_true, Bool.true_and]
  by_cases ptx : i < 9
  · simp [ptx, show i < 18 by omega, show i < 27 by omega]
  by_cases pdx : i < 18
  · simp [ptx, pdx, show i - 9 < 9 by omega, show i < 27 by omega, show 21 + (i - 9) = 12 + i by omega]
  by_cases pdpx : i < 27
  · simp [ptx, pdx, pdpx, show i - 18 < 9 by omega, show ¬ i - 9 < 9 by omega, show 30 + (i - 18) = 12 + i by omega]
  · simp [ptx, pdpx, show ¬ i - 18 < 9 by omega, show ¬ i - 9 < 9 by omega]

/-- The page number of an address below `2 ^ 39` has 27 bits. -/
theorem toNat_pageNumber_lt_of_lt {la : Word} (h : la.toNat < 2 ^ 39) : (pageNumber la).toNat < 2 ^ 27 :=
  toNat_lt_of_getLsbD _ 27 fun i hi => by
    rw [getLsbD_pageNumber, getLsbD_eq_false_of_toNat_lt la 39 h (12 + i) (by omega)]

/-- Settles O25: the indices are the low 27 bits of the page number, which below `2 ^ 39` has no others. -/
theorem pageNumberIsMadeOfTheIndices : Obligations.PageNumberIsMadeOfTheIndices := by
  refine fun la s => ⟨_, _, exec_decomp la s, exec_frameno la _, pageNumber_and_vpnMask la, fun h => ?_⟩
  exact (and_lowMask_of_toNat_lt (n := 27) rfl (toNat_pageNumber_lt_of_lt h)).symm.trans (pageNumber_and_vpnMask la)

/-- R44: a page number is determined by bits 63:12 of the address. -/
theorem pageNumber_eq_iff (x y : Word) : pageNumber x = pageNumber y ↔ ∀ i, 12 ≤ i → x.getLsbD i = y.getLsbD i := by
  constructor
  · intro h i hi
    have : 12 + (i - 12) = i := by omega
    rw [← this, ← getLsbD_pageNumber, ← getLsbD_pageNumber, h]
  · intro h
    apply word_ext
    intro i _
    rw [getLsbD_pageNumber, getLsbD_pageNumber, h (12 + i) (by omega)]

/-- Settles O26: equal answers are equal page numbers. -/
theorem samePageNumberExactlyWithinOnePage : Obligations.SamePageNumberExactlyWithinOnePage := by
  intro x y s
  rw [exec_frameno, exec_frameno, next_drive_inj, onY0_inj, pageNumber_eq_iff]

/-- R103: the round trip clears the bits above 38. -/
theorem composeAddress_fields (la : Word) :
    composeAddress (pdpxOf la) (pdxOf la) (ptxOf la) (pgoffOf la) = la &&& 0x7FFFFFFFFF#64 := by
  apply word_ext
  intro i _
  rw [getLsbD_composeAddress_fields, getLsbD_and_lowMask (n := 39) rfl]

/-- Settles O30: both operations answer, and R103 is about the words they answer with. -/
theorem decomposeThenComposeClearsTheHighBits : Obligations.DecomposeThenComposeClearsTheHighBits :=
  fun la s => ⟨_, _, exec_decomp la s, exec_compose _ _ _ _ _, composeAddress_fields la⟩

/-! R42: no field reads above bit 38. -/

theorem index_and_vaMask (la : Word) {n : Nat} (hn : n + 9 ≤ 39) :
    fieldOf (la &&& 0x7FFFFFFFFF#64) n Config.IDX_MASK = fieldOf la n Config.IDX_MASK := by
  apply word_ext
  intro i _
  rw [getLsbD_index, getLsbD_index, getLsbD_and_lowMask (n := 39) rfl]
  by_cases hi : i < 9
  · simp [show n + i < 39 by omega]
  · simp [hi]

theorem pgoffOf_and_vaMask (la : Word) : pgoffOf (la &&& 0x7FFFFFFFFF#64) = pgoffOf la := by
  apply word_ext
  intro i _
  rw [getLsbD_pgoffOf, getLsbD_pgoffOf, getLsbD_and_lowMask (n := 39) rfl]
  by_cases hi : i < 12
  · simp [show i < 39 by omega]
  · simp [hi]

theorem decompose_and_vaMask (la : Word) : decompose (la &&& 0x7FFFFFFFFF#64) = decompose la := by
  simp only [decompose, pdpxOf, pdxOf, ptxOf, pgoffOf_and_vaMask]
  rw [index_and_vaMask la (by decide), index_and_vaMask la (by decide), index_and_vaMask la (by decide)]

/-- The four fields are bits 38:0, no more and no less: composing them gives these bits back (R103). -/
theorem decompose_eq_iff (x y : Word) :
    decompose x = decompose y ↔ x &&& 0x7FFFFFFFFF#64 = y &&& 0x7FFFFFFFFF#64 := by
  constructor
  · intro h
    simp only [decompose, Response.mk.injEq] at h
    obtain ⟨pdpx, pdx, ptx, pgoff⟩ := h
    rw [← composeAddress_fields x, pdpx, pdx, ptx, pgoff, composeAddress_fields y]
  · intro h
    rw [← decompose_and_vaMask x, h, decompose_and_vaMask y]

/-- Settles O27: equal answers are equal fields. -/
theorem decompAgreesExactlyOnTheLow39Bits : Obligations.DecompAgreesExactlyOnTheLow39Bits := by
  intro x y s
  exact (next_drive_inj s (decompose x) (decompose y)).trans (decompose_eq_iff x y)

/-! R104: a field of a composed address as the OR of the operand slices that fall into it. -/

theorem pdpxOf_composeAddress_eq_slices (p d t o : Word) : pdpxOf (composeAddress p d t o) =
    (p.extractLsb' 0 9 ||| d.extractLsb' 9 9 ||| t.extractLsb' 18 9 ||| o.extractLsb' 30 9).setWidth 64 := by
  apply word_ext
  intro i hi
  rw [getLsbD_pdpxOf_composeAddress, BitVec.getLsbD_setWidth]
  by_cases h : i < 9
  · simp [hi, h]
  · simp [h]

theorem pdxOf_composeAddress_eq_slices (p d t o : Word) : pdxOf (composeAddress p d t o) =
    (d.extractLsb' 0 9 ||| t.extractLsb' 9 9 ||| o.extractLsb' 21 9).setWidth 64 := by
  apply word_ext
  intro i hi
  rw [getLsbD_pdxOf_composeAddress, BitVec.getLsbD_setWidth]
  by_cases h : i < 9
  · simp [hi, h]
  · simp [h]

theorem ptxOf_composeAddress_eq_slices (p d t o : Word) : ptxOf (composeAddress p d t o) =
    (t.extractLsb' 0 9 ||| o.extractLsb' 12 9).setWidth 64 := by
  apply word_ext
  intro i hi
  rw [getLsbD_ptxOf_composeAddress, BitVec.getLsbD_setWidth]
  by_cases h : i < 9
  · simp [hi, h]
  · simp [h]

theorem pgoffOf_composeAddress_eq_slice (p d t o : Word) : pgoffOf (composeAddress p d t o) =
    (o.extractLsb' 0 12).setWidth 64 := by
  apply word_ext
  intro i hi
  rw [getLsbD_pgoffOf_composeAddress, BitVec.getLsbD_setWidth, BitVec.getLsbD_extractLsb']
  simp [hi]

/-- Settles O31: both operations answer, and each result is the OR R104 gives for its field. -/
theorem composeThenDecomposeShowsTheOverlap : Obligations.ComposeThenDecomposeShowsTheOverlap := by
  intro p d t o s
  refine ⟨_, _, exec_compose p d t o s, exec_decomp _ _, ?_⟩
  rw [drive_resp, drive_resp, onY0_y0, pdpxOf_composeAddress_eq_slices, pdxOf_composeAddress_eq_slices,
    ptxOf_composeAddress_eq_slices, pgoffOf_composeAddress_eq_slice]

/-! The fields as numbers. -/

theorem toNat_index (la : Word) (n : Nat) :
    (fieldOf la n Config.IDX_MASK).toNat = la.toNat / 2 ^ n % 2 ^ 9 := by
  rw [fieldOf, toNat_and_lowMask (n := 9) rfl, shr, BitVec.toNat_ushiftRight, Nat.shiftRight_eq_div_pow]

theorem toNat_pgoffOf (la : Word) : (pgoffOf la).toNat = la.toNat % 2 ^ 12 :=
  toNat_and_lowMask rfl la

section InRange

variable {p d t o : Word} (hp : p.toNat < 2 ^ 9) (hd : d.toNat < 2 ^ 9) (ht : t.toNat < 2 ^ 9) (ho : o.toNat < 2 ^ 12)

include hp hd ht ho

theorem toNat_composeAddress_lt : (composeAddress p d t o).toNat < 2 ^ 39 :=
  toNat_lt_of_getLsbD _ 39 fun i hi => by
    rw [getLsbD_composeAddress, getLsbD_eq_false_of_toNat_lt p 9 hp (i - 30) (by omega),
      getLsbD_eq_false_of_toNat_lt d 9 hd (i - 21) (by omega), getLsbD_eq_false_of_toNat_lt t 9 ht (i - 12) (by omega),
      getLsbD_eq_false_of_toNat_lt o 12 ho i (by omega)]
    simp

/-- In contract the OR is a sum: the composed address has the operands as its fields (R102), which tile its 39 bits. -/
theorem toNat_composeAddress : (composeAddress p d t o).toNat =
    p.toNat * 2 ^ 30 + d.toNat * 2 ^ 21 + t.toNat * 2 ^ 12 + o.toNat := by
  have bound := toNat_composeAddress_lt hp hd ht ho
  have pdpx := toNat_index (composeAddress p d t o) 30
  have pdx := toNat_index (composeAddress p d t o) 21
  have ptx := toNat_index (composeAddress p d t o) 12
  have pgoff := toNat_pgoffOf (composeAddress p d t o)
  rw [show fieldOf _ 30 _ = p from pdpxOf_composeAddress hp hd ht ho] at pdpx
  rw [show fieldOf _ 21 _ = d from pdxOf_composeAddress hd ht ho] at pdx
  rw [show fieldOf _ 12 _ = t from ptxOf_composeAddress ht ho] at ptx
  rw [pgoffOf_composeAddress ho] at pgoff
  omega

end InRange

/-- R42: an address below `2 ^ 39` has zeros in bits 63:39, so it is canonical exactly when bit 38 is zero too. -/
theorem canonical_iff_of_lt {la : Word} (h : la.toNat < 2 ^ 39) : canonical la = true ↔ la.toNat < 2 ^ 38 := by
  have low : (la.setWidth 39).toNat = la.toNat := by rw [BitVec.toNat_setWidth, Nat.mod_eq_of_lt h]
  have sign : (la.setWidth 39).msb = decide (2 ^ 38 ≤ la.toNat) := by rw [BitVec.msb_eq_decide, low]
  rw [canonical, beq_iff_eq]
  by_cases hs : la.toNat < 2 ^ 38
  · have : la = (la.setWidth 39).setWidth 64 := BitVec.eq_of_toNat_eq (by rw [BitVec.toNat_setWidth, low]; omega)
    rw [BitVec.signExtend_eq_setWidth_of_msb_false (by rw [sign]; exact decide_eq_false (Nat.not_le.mpr hs))]
    exact iff_of_true this hs
  · refine iff_of_false (fun hla => ?_) hs
    have top : la.getLsbD 63 = false := getLsbD_eq_false_of_toNat_lt la 39 h 63 (by decide)
    rw [hla, BitVec.getLsbD_signExtend, sign] at top
    simp at top
    omega

/-- Settles O32: the OR is the sum below `2 ^ 39`, whose bit 38 is bit 8 of the top index. -/
theorem inContractComposeIsTheSumAndNotSignExtended : Obligations.InContractComposeIsTheSumAndNotSignExtended := by
  intro p d t o s h
  obtain ⟨hp, hd, ht, ho⟩ := (inContract_compose_iff p d t o).mp h
  have sum := toNat_composeAddress hp hd ht ho
  have bound := toNat_composeAddress_lt hp hd ht ho
  refine ⟨_, exec_compose p d t o s, sum, bound, ?_⟩
  rw [drive_resp, onY0_y0, canonical_iff_of_lt bound, sum]
  omega

/-- R100: only the operand bits that stay within the word count. -/
theorem composeAddress_congr {p d t p' d' t' : Word} (o : Word) (hp : ∀ i, i < 34 → p.getLsbD i = p'.getLsbD i)
    (hd : ∀ i, i < 43 → d.getLsbD i = d'.getLsbD i) (ht : ∀ i, i < 52 → t.getLsbD i = t'.getLsbD i) :
    composeAddress p d t o = composeAddress p' d' t' o := by
  apply word_ext
  intro i hi
  rw [getLsbD_composeAddress, getLsbD_composeAddress]
  by_cases pdpx : i < 30
  · by_cases pdx : i < 21
    · by_cases ptx : i < 12
      · simp [pdpx, pdx, ptx]
      · rw [ht (i - 12) (by omega)]
        simp [pdpx, pdx]
    · rw [hd (i - 21) (by omega), ht (i - 12) (by omega)]
      simp [pdpx]
  · rw [hp (i - 30) (by omega), hd (i - 21) (by omega), ht (i - 12) (by omega)]

/-- Settles O33: the composed addresses are the same. -/
theorem composeLosesTheBitsShiftedOut : Obligations.ComposeLosesTheBitsShiftedOut := by
  intro p d t o p' d' t' s hp hd ht
  rw [exec_compose, exec_compose, composeAddress_congr o hp hd ht]

/-- R100: `COMPOSE` drives the OR of the shifted operands on `y0`. -/
theorem exec_compose_formula (p d t o : Word) (s : State) :
    exec (.compose p d t o) s = .next (s.drive (onY0 ((p <<< 30) ||| (d <<< 21) ||| (t <<< 12) ||| o))) := by
  rw [exec_compose]
  rfl

/-- Settles O3: R100's formula, as an operation and through the code `0x1`. -/
theorem composeAnswersTheOrOfShiftedFields : Obligations.ComposeAnswersTheOrOfShiftedFields := by
  refine ⟨exec_compose_formula, fun a b c d s => ?_⟩
  have code : Opcode.ofOp 0x1#4 = some .COMPOSE := ofOp_code .COMPOSE
  rw [step_issue_of_ofOp code]
  exact exec_compose_formula a b c d _

end Sys2Proof.Machine
end

section
/-! Proofs for the statements of 42_pte_codec.md and of 70_reset_and_hazards.md H3. `PTEBUILD` and `PTEADDR` go bit by
bit; `PTELEAF` is the OR of three flag tests, and a flag test reads one bit. -/

namespace Sys2Proof.Machine

/-! `PTEBUILD`. -/

/-- Settles O34: every bit of the built entry. -/
theorem ptebuildPlacesEveryBit : Obligations.PtebuildPlacesEveryBit :=
  fun f c s => ⟨_, exec_ptebuild f c s, fun i _ => getLsbD_buildPte f c i⟩

/-- R110: the flag region of an entry is that of the flag operand, for any address. -/
theorem getLsbD_buildPte_of_lt (f c : Word) {i : Nat} (hi : i < 10) : (buildPte f c).getLsbD i = c.getLsbD i := by
  simp [getLsbD_buildPte, Nat.not_le.mpr hi]

/-- R110: above a flag operand within bits 9:0 an entry holds the page number. -/
theorem getLsbD_buildPte_of_ge (f : Word) {c : Word} (hc : c.toNat < 2 ^ 10) {i : Nat} (hi : 10 ≤ i) :
    (buildPte f c).getLsbD i = f.getLsbD (i + 2) := by
  rw [getLsbD_buildPte, getLsbD_eq_false_of_toNat_lt c 10 hc i hi, Bool.or_false]
  by_cases top : i < 62
  · simp [hi, top]
  · simp [top, getLsbD_of_ge_64 f (show 64 ≤ i + 2 by omega)]

/-- A slice is determined by its bits. -/
theorem slice_ext {v w : Word} {start start' len : Nat}
    (h : ∀ i, i < len → v.getLsbD (start + i) = w.getLsbD (start' + i)) :
    v.extractLsb' start len = w.extractLsb' start' len := by
  apply BitVec.eq_of_getLsbD_eq
  intro i hi
  rw [BitVec.getLsbD_extractLsb', BitVec.getLsbD_extractLsb', h i hi]

/-- Settles O35: the layout of R45, from the bits above and within the flag region. -/
theorem inContractEntryHasTheLayout : Obligations.InContractEntryHasTheLayout := by
  intro f c s h
  obtain ⟨-, hf, hc⟩ := (inContract_ptebuild_iff f c).mp h
  refine ⟨_, exec_ptebuild f c s, ?_, ?_, ?_⟩
  · have zero : (0#64).extractLsb' 54 10 = 0#10 := by decide
    rw [← zero]
    apply slice_ext
    intro i _
    rw [drive_resp, onY0_y0, getLsbD_buildPte_of_ge f hc (by omega),
      getLsbD_eq_false_of_toNat_lt f 56 hf _ (by omega), BitVec.getLsbD_zero]
  · apply slice_ext
    intro i _
    rw [drive_resp, onY0_y0, getLsbD_buildPte_of_ge f hc (by omega), show 10 + i + 2 = 12 + i by omega]
  · apply slice_ext
    intro i hi
    rw [drive_resp, onY0_y0, getLsbD_buildPte_of_lt f c (by omega)]

/-- R110: the page number does not depend on the page offset. -/
theorem pageNumber_and_not_pgoffMask (f : Word) : pageNumber (f &&& ~~~0xFFF#64) = pageNumber f := by
  rw [pageNumber_eq_iff]
  intro i hi
  rw [getLsbD_and_not_lowMask (n := 12) rfl, decide_eq_true hi, Bool.true_and]

/-- Settles O36: an entry is built from the page number of the address alone. -/
theorem unalignedFrameBuildsTheContainingFramesEntry : Obligations.UnalignedFrameBuildsTheContainingFramesEntry := by
  intro f c s
  rw [exec_ptebuild, exec_ptebuild, buildPte, buildPte, pageNumber_and_not_pgoffMask]

/-! `PTEADDR`. -/

/-- Settles O37: every bit of the frame address, its alignment and its bound. -/
theorem pteaddrReadsThePpnFieldBitByBit : Obligations.PteaddrReadsThePpnFieldBitByBit :=
  fun e s => ⟨_, exec_pteaddr e s, getLsbD_extractFrameAddress e, toNat_extractFrameAddress_mod e,
    toNat_extractFrameAddress_lt e⟩

/-- The constraint on the mask, bit by bit: bits 9:0 are clear and bits 53:10 are set. -/
theorem getLsbD_of_ppnMaskAdmissible {m : Word} (hm : Config.ppnMaskAdmissible m = true) {i : Nat} (hi : i < 54) :
    m.getLsbD i = decide (10 ≤ i) := by
  rw [Config.ppnMaskAdmissible, Bool.and_eq_true, beq_iff_eq, beq_iff_eq] at hm
  obtain ⟨low, high⟩ := hm
  by_cases h : i < 10
  · have := congrArg (·.getLsbD i) low
    simpa [getLsbD_and_lowMask (mask := 0x3FF#64) (n := 10) rfl, h, Nat.not_le.mpr h] using this
  · have ppn : Config.PPN_FIELD_MASK.getLsbD i = true := by simp [getLsbD_ppnMask, hi, Nat.not_lt.mp h]
    have := congrArg (·.getLsbD i) high
    change (m &&& Config.PPN_FIELD_MASK).getLsbD i = Config.PPN_FIELD_MASK.getLsbD i at this
    rw [BitVec.getLsbD_and, ppn, Bool.and_true] at this
    simp [this, Nat.not_lt.mp h]

/-- U4: on an entry with bits 63:54 clear every admissible mask selects the same bits. -/
theorem extractFrameAddress_eq_of_admissible {m e : Word} (hm : Config.ppnMaskAdmissible m = true)
    (he : e.toNat < 2 ^ 54) : extractFrameAddress e = frameAddressWith m e := by
  have field : e &&& Config.PPN_FIELD_MASK = e &&& m := by
    apply word_ext
    intro i _
    rw [BitVec.getLsbD_and, BitVec.getLsbD_and, getLsbD_ppnMask]
    by_cases hi : i < 54
    · simp [getLsbD_of_ppnMaskAdmissible hm hi, hi]
    · simp [getLsbD_eq_false_of_toNat_lt e 54 he i (Nat.not_lt.mp hi)]
  rw [extractFrameAddress, frameAddressWith, field, frameAddressWith]

/-- Settles O38: both candidates are admissible, and every admissible mask gives the decided one's answer. -/
theorem pteaddrNeedsNoChoiceOfMask : Obligations.PteaddrNeedsNoChoiceOfMask := by
  refine ⟨by decide, by decide, fun m e s hm he => ?_⟩
  rw [exec_pteaddr, extractFrameAddress_eq_of_admissible hm he]
  rfl

/-- R114 for any address: bits 55:12 come back. -/
theorem getLsbD_extractFrameAddress_buildPte (f : Word) {c : Word} (hc : c.toNat < 2 ^ 10) (i : Nat) :
    (extractFrameAddress (buildPte f c)).getLsbD i = (decide (12 ≤ i ∧ i < 56) && f.getLsbD i) := by
  rw [getLsbD_extractFrameAddress]
  by_cases hi : 12 ≤ i ∧ i < 56
  · rw [getLsbD_buildPte_of_ge f hc (by omega), show i - 2 + 2 = i by omega]
  · simp [hi]

/-- R43, R57: the frame of an address, bits 55:12. -/
theorem getLsbD_and_frameMask (f : Word) (i : Nat) :
    (f &&& 0x00FFFFFFFFFFF000#64).getLsbD i = (decide (12 ≤ i ∧ i < 56) && f.getLsbD i) := by
  have mask : 0x00FFFFFFFFFFF000#64 = 0x00FFFFFFFFFFFFFF#64 &&& ~~~0xFFF#64 := by decide
  rw [mask, ← BitVec.and_assoc, getLsbD_and_not_lowMask (n := 12) rfl, getLsbD_and_lowMask (n := 56) rfl,
    ← Bool.and_assoc, Bool.decide_and]

theorem extractFrameAddress_buildPte (f : Word) {c : Word} (hc : c.toNat < 2 ^ 10) :
    extractFrameAddress (buildPte f c) = f &&& 0x00FFFFFFFFFFF000#64 := by
  apply word_ext
  intro i _
  rw [getLsbD_extractFrameAddress_buildPte f hc, getLsbD_and_frameMask]

/-- Settles O40: both operations answer, and bits 55:12 come back. -/
theorem roundTripKeepsBits55To12 : Obligations.RoundTripKeepsBits55To12 :=
  fun f _ s hc => ⟨_, _, exec_ptebuild f _ s, exec_pteaddr _ _, extractFrameAddress_buildPte f hc⟩

/-- R114: an aligned address in the physical space has no other bits, so it comes back whole. -/
theorem extractFrameAddress_buildPte_of_inContract {f c : Word} (h : (Instr.ptebuild f c).inContract = true) :
    extractFrameAddress (buildPte f c) = f := by
  obtain ⟨aligned, bound, hc⟩ := (inContract_ptebuild_iff f c).mp h
  apply word_ext
  intro i _
  rw [getLsbD_extractFrameAddress_buildPte f hc]
  by_cases low : i < 12
  · simp [(toNat_mod_two_pow_eq_zero_iff f 12).mp aligned i low]
  · by_cases high : i < 56
    · simp [high, Nat.not_lt.mp low]
    · simp [high, getLsbD_eq_false_of_toNat_lt f 56 bound i (Nat.not_lt.mp high)]

/-- Settles O39: both operations answer, and the frame comes back (R114). -/
theorem frameAddressSurvivesTheEntry : Obligations.FrameAddressSurvivesTheEntry :=
  fun f c s h => ⟨_, _, exec_ptebuild f c s, exec_pteaddr _ _, extractFrameAddress_buildPte_of_inContract h⟩

/-! `PTEFLAG` and `PTELEAF`. -/

/-- Settles O41: the mask of a flag selects its bit, and any mask the OR of the bits it names. -/
theorem pteflagAnswersTheNamedBit : Obligations.PteflagAnswersTheNamedBit := by
  refine ⟨fun e g s => ?_, fun e b s => ⟨_, exec_pteflag e b s, ?_⟩⟩
  · rw [exec_pteflag, anyBitOf_flagMask]
    rfl
  · exact (boolWord_eq_one_iff _).trans (anyBitOf_eq_true_iff e b)

/-- R115: a built entry has the flags it was built with. -/
theorem anyBitOf_buildPte_flagMask (f c : Word) (g : PteFlag) :
    anyBitOf (buildPte f c) g.mask = c.getLsbD g.bit := by
  rw [anyBitOf_flagMask, getLsbD_buildPte_of_lt f c g.bit_lt]

/-- Settles O42: both operations answer, and the flag is the one of the flag operand (R115). -/
theorem builtEntryTellsItsFlags : Obligations.BuiltEntryTellsItsFlags :=
  fun f c g s _ => ⟨_, _, exec_ptebuild f c s, exec_pteflag _ _ _, congrArg boolWord (anyBitOf_buildPte_flagMask f c g)⟩

theorem anyBitOf_or_mask (e b b' : Word) : anyBitOf e (b ||| b') = (anyBitOf e b || anyBitOf e b') := by
  rw [anyBitOf, BitVec.and_or_distrib_left, anyBitOf, anyBitOf, Bool.eq_iff_iff]
  simp [BitVec.or_eq_zero_iff, -not_and, not_and_or]

/-- R113: the leaf test is the OR of the tests of R, W and X. -/
theorem isLeaf_eq (e : Word) : isLeaf e = (e.getLsbD 1 || e.getLsbD 2 || e.getLsbD 3) := by
  have mask : Config.PTE_RWX_MASK = PteFlag.R.mask ||| PteFlag.W.mask ||| PteFlag.X.mask := by decide
  rw [isLeaf, mask, anyBitOf_or_mask, anyBitOf_or_mask, anyBitOf_flagMask, anyBitOf_flagMask, anyBitOf_flagMask]
  rfl

/-- R116: a built entry is a leaf by its flag operand. -/
theorem isLeaf_buildPte (f c : Word) : isLeaf (buildPte f c) = isLeaf c := by
  rw [isLeaf_eq, isLeaf_eq, getLsbD_buildPte_of_lt f c (by decide), getLsbD_buildPte_of_lt f c (by decide),
    getLsbD_buildPte_of_lt f c (by decide)]

/-- Settles O43: both operations answer, and the leaf test is that of the flag operand (R116). -/
theorem builtEntryIsLeafByItsFlags : Obligations.BuiltEntryIsLeafByItsFlags := by
  refine fun f c s _ => ⟨_, _, exec_ptebuild f c s, exec_pteleaf _ _, ?_⟩
  rw [drive_resp, drive_resp, onY0_y0, onY0_y0, isLeaf_buildPte, boolWord_isLeaf]

/-- R54, R113: the leaf test is whether bits 3:1 are not zero. -/
theorem isLeaf_eq_slice (e : Word) : isLeaf e = (e.extractLsb' 1 3 != 0#3) := by
  have bit (i : Nat) (hi : i < 3) : e.getLsbD (1 + i) = (e.extractLsb' 1 3).getLsbD i := by
    simp [hi]
  have test : ∀ x : BitVec 3, (x.getLsbD 0 || x.getLsbD 1 || x.getLsbD 2) = (x != 0#3) := by decide
  rw [isLeaf_eq, bit 0 (by decide), bit 1 (by decide), bit 2 (by decide), test]

/-- R54, R117: the three meanings by the V bit and the leaf test. -/
theorem classify_eq (e : Word) : classify e =
    if e.getLsbD 0 = false then .INVALID else if isLeaf e = false then .POINTER else .LEAF := by
  simp [classify, isLeaf_eq_slice]

/-- Settles O44: both operations answer, with the V bit and the leaf test (R117). -/
theorem twoRequestsClassifyAnEntry : Obligations.TwoRequestsClassifyAnEntry := by
  refine fun e s => ⟨_, _, exec_pteflag e _ s, exec_pteleaf e _, ?_⟩
  have valid : anyBitOf e 0x001#64 = e.getLsbD 0 := anyBitOf_flagMask e .V
  simp only [drive_resp, onY0_y0, boolWord_eq_zero_iff, valid, classify_eq]

/-- Settles O45: the leaf test is the flag test with mask `0xE`, and reads bits 3:1. -/
theorem pteleafIsTheTestOfThreeBits : Obligations.PteleafIsTheTestOfThreeBits := by
  refine fun e e' s => ⟨rfl, ?_, fun h => ?_⟩
  · rw [exec_pteleaf, isLeaf_eq]
    rfl
  · rw [exec_pteleaf, exec_pteleaf, isLeaf_eq_slice, h, ← isLeaf_eq_slice]

/-! H3: a word with V set and the same word with V clear have every other bit in common. -/

theorem getLsbD_setValid (e : Word) {i : Nat} (hi : i ≠ 0) :
    (e ||| 1#64).getLsbD i = (e &&& ~~~1#64).getLsbD i := by
  rw [BitVec.getLsbD_or, getLsbD_lowMask (mask := 1#64) (n := 1) rfl, getLsbD_and_not_lowMask (n := 1) rfl]
  simp [hi, Nat.one_le_iff_ne_zero]

theorem extractFrameAddress_setValid (e : Word) :
    extractFrameAddress (e ||| 1#64) = extractFrameAddress (e &&& ~~~1#64) := by
  apply word_ext
  intro i _
  rw [getLsbD_extractFrameAddress, getLsbD_extractFrameAddress]
  by_cases hi : 12 ≤ i ∧ i < 56
  · rw [getLsbD_setValid e (by omega)]
  · rw [decide_eq_false hi, Bool.false_and, Bool.false_and]

theorem anyBitOf_setValid (e : Word) {b : Word} (hb : b.getLsbD 0 = false) :
    anyBitOf (e ||| 1#64) b = anyBitOf (e &&& ~~~1#64) b := by
  have common : (e ||| 1#64) &&& b = (e &&& ~~~1#64) &&& b := by
    apply word_ext
    intro i _
    rw [BitVec.getLsbD_and, BitVec.getLsbD_and]
    by_cases hi : i = 0
    · rw [hi, hb, Bool.and_false, Bool.and_false]
    · rw [getLsbD_setValid e hi]
  rw [anyBitOf, common, ← anyBitOf]

/-- Settles O46: `PTEADDR` reads bits from 10 up, `PTELEAF` is the test with the mask `0xE`, and a mask without V does
not select it. -/
theorem resultsDoNotConsultTheValidBit : Obligations.ResultsDoNotConsultTheValidBit := by
  refine fun e b s => ⟨?_, ?_, fun hb => ?_⟩
  · rw [exec_pteaddr, exec_pteaddr, extractFrameAddress_setValid]
  · rw [exec_pteleaf, exec_pteleaf, isLeaf, isLeaf, anyBitOf_setValid e (by decide)]
  · rw [exec_pteflag, exec_pteflag, anyBitOf_setValid e hb]

/-! The formulas of R110 to R112, as operations and from the ports. -/

theorem exec_ptebuild_formula (f c : Word) (s : State) :
    exec (.ptebuild f c) s = .next (s.drive (onY0 (((f >>> 12) <<< 10) ||| c))) := by
  rw [exec_ptebuild, buildPte, pageNumber_eq_ushiftRight]
  rfl

theorem exec_pteaddr_formula (e : Word) (s : State) :
    exec (.pteaddr e) s = .next (s.drive (onY0 ((e &&& 0x003FFFFFFFFFFC00#64) <<< 2))) := by
  rw [exec_pteaddr]
  rfl

theorem exec_pteflag_formula (e b : Word) (s : State) :
    exec (.pteflag e b) s = .next (s.drive (onY0 (if e &&& b = 0#64 then 0#64 else 1#64))) := by
  rw [exec_pteflag, boolWord_anyBitOf]

/-- Settles O4: R110's formula, as an operation and through the code `0x3`. -/
theorem ptebuildPacksPageNumberAndFlags : Obligations.PtebuildPacksPageNumberAndFlags := by
  refine ⟨exec_ptebuild_formula, fun a b c d s => ?_⟩
  have code : Opcode.ofOp 0x3#4 = some .PTEBUILD := ofOp_code .PTEBUILD
  rw [step_issue_of_ofOp code]
  exact exec_ptebuild_formula a b _

/-- Settles O5: R111's formula, as an operation and through the code `0x4`. -/
theorem pteaddrMasksAndRescales : Obligations.PteaddrMasksAndRescales := by
  refine ⟨exec_pteaddr_formula, fun a b c d s => ?_⟩
  have code : Opcode.ofOp 0x4#4 = some .PTEADDR := ofOp_code .PTEADDR
  rw [step_issue_of_ofOp code]
  exact exec_pteaddr_formula a _

/-- Settles O6: R112's formula, as an operation and through the code `0x5`. -/
theorem pteflagTestsTheAndOfEntryAndMask : Obligations.PteflagTestsTheAndOfEntryAndMask := by
  refine ⟨exec_pteflag_formula, fun a b c d s => ?_⟩
  have code : Opcode.ofOp 0x5#4 = some .PTEFLAG := ofOp_code .PTEFLAG
  rw [step_issue_of_ofOp code]
  exact exec_pteflag_formula a b _

end Sys2Proof.Machine
end

section
/-! Proofs for the statements of 43_permission_table.md, and for a class carried through the codec. A class's value
has exactly the bits of its flags (R131); `PTEBUILD` keeps them in the flag region of the entry, where the other
operations read them. -/

namespace Sys2Proof.Machine

/-! Flag sets (R134). -/

/-- R130: no two flags share a bit. -/
theorem PteFlag.bit_inj {g g' : PteFlag} (h : g.bit = g'.bit) : g = g' := by
  have hg := getElem?_flagTable_bit g
  rw [h, getElem?_flagTable_bit g'] at hg
  exact (Option.some.inj hg).symm

theorem getLsbD_foldl_or_mask (fs : List PteFlag) (v : Word) (i : Nat) :
    (fs.foldl (fun v f => v ||| f.mask) v).getLsbD i = true ↔ v.getLsbD i = true ∨ ∃ f ∈ fs, i = f.bit := by
  induction fs generalizing v with
  | nil => simp
  | cons f fs ih => simp [ih, getLsbD_flagMask, or_assoc]

/-- R134: a flag set has the bits of its flags and no others. -/
theorem getLsbD_flagSet_iff (fs : List PteFlag) (g : PteFlag) : (flagSet fs).getLsbD g.bit = true ↔ g ∈ fs := by
  rw [flagSet, getLsbD_foldl_or_mask]
  constructor
  · rintro (h | ⟨f, hf, hbit⟩)
    · simp at h
    · exact PteFlag.bit_inj hbit ▸ hf
  · exact fun h => .inr ⟨g, h, rfl⟩

/-! The classes (R131). -/

theorem getLsbD_classBits_iff (k : PermClass) (g : PteFlag) : k.bits.getLsbD g.bit = true ↔ g ∈ k.flags :=
  getLsbD_flagSet_iff k.flags g

/-- R132: a class is read at its index. -/
theorem classBits_index (k : PermClass) : classBits k.index = k.bits := by cases k <;> rfl

/-- R133: every class has V. -/
theorem getLsbD_bits_zero (k : PermClass) : k.bits.getLsbD 0 = true :=
  (getLsbD_classBits_iff k .V).mpr (by cases k <;> decide)

/-- R133: no class has G, A, D or a software bit. -/
theorem toNat_bits_lt (k : PermClass) : k.bits.toNat < 2 ^ 5 := by cases k <;> decide

/-- R133: only `USER_DEFAULT` has U. -/
theorem getLsbD_bits_four_iff (k : PermClass) : k.bits.getLsbD 4 = true ↔ k = .USER_DEFAULT := by cases k <;> decide

/-- R133: only `POINTER` has none of R, W, X. -/
theorem isLeaf_bits_iff (k : PermClass) : isLeaf k.bits = false ↔ k = .POINTER := by cases k <;> decide

/-- R133: W comes with R. -/
theorem getLsbD_bits_one_of_two (k : PermClass) : k.bits.getLsbD 2 = true → k.bits.getLsbD 1 = true := by
  cases k <;> decide

/-- Settles O47: the class is read at its index, and R133 holds of its value. -/
theorem everyClassReadsBackWithItsProperties : Obligations.EveryClassReadsBackWithItsProperties := by
  intro k s
  refine ⟨_, exec_permcls k.index s, ?_⟩
  have rwx : k.bits &&& 0xE#64 = 0#64 ↔ k = .POINTER := by
    rw [← isLeaf_bits_iff, ← boolWord_eq_zero_iff, boolWord_isLeaf]
    simp
  rw [drive_resp, onY0_y0, classBits_index]
  exact ⟨getLsbD_classBits_iff k, getLsbD_bits_zero k, toNat_bits_lt k, getLsbD_bits_four_iff k, rwx,
    getLsbD_bits_one_of_two k⟩

/-- R133: the first row of the class table with a class's bits 4:0 is the class's own. -/
theorem find?_classTable (k : PermClass) :
    classTable.find? (fun c => c.bits.extractLsb' 0 5 == k.bits.extractLsb' 0 5) = some k := by
  cases k <;> decide

/-- R133: bits 4:0 tell the classes apart. -/
theorem slice_bits_inj {k k' : PermClass} (h : k.bits.extractLsb' 0 5 = k'.bits.extractLsb' 0 5) : k = k' := by
  have hk := find?_classTable k
  rw [h, find?_classTable k'] at hk
  exact (Option.some.inj hk).symm

/-- R110: bits 4:0 of an entry are those of the flag operand. -/
theorem slice_buildPte (f c : Word) : (buildPte f c).extractLsb' 0 5 = c.extractLsb' 0 5 :=
  slice_ext fun _ _ => getLsbD_buildPte_of_lt f c (by omega)

/-- Settles O48: bits 4:0 of the entries are those of the classes, which tell them apart. -/
theorem classIsRecoveredFromTheEntry : Obligations.ClassIsRecoveredFromTheEntry := by
  refine fun k k' f f' s => ⟨_, _, exec_ptebuild f k.bits s, exec_ptebuild f' k'.bits s, ?_⟩
  rw [drive_resp, drive_resp, onY0_y0, onY0_y0, slice_buildPte, slice_buildPte]
  exact ⟨slice_bits_inj, fun h => by rw [h]⟩

/-- R117: an entry built from a class is a pointer for `POINTER` and a leaf for every other class. -/
theorem classify_buildPte_bits (f : Word) (k : PermClass) :
    classify (buildPte f k.bits) = if k = .POINTER then .POINTER else .LEAF := by
  have valid : (buildPte f k.bits).getLsbD 0 = true := by
    rw [getLsbD_buildPte_of_lt f _ (by decide), getLsbD_bits_zero]
  simp only [classify_eq, valid, isLeaf_buildPte, isLeaf_bits_iff, Bool.true_eq_false, if_false]

/-- Settles O49: the five operations answer in turn, and R114 to R117 say what the entry of the class tells. -/
theorem classThroughTheCodecReadsBack : Obligations.ClassThroughTheCodecReadsBack := by
  intro k f g s aligned bound
  have contract : (Instr.ptebuild f k.bits).inContract = true :=
    (inContract_ptebuild_iff f k.bits).mpr ⟨(alignedFrame_iff f).mp aligned, of_decide_eq_true bound,
      (toNat_bits_lt k).trans (by decide)⟩
  refine ⟨_, _, _, _, _, exec_permcls k.index s, exec_ptebuild f _ _, exec_pteaddr _ _, ?_, exec_pteflag _ _ _, ?_,
    exec_pteleaf _ _, ?_, ?_⟩
  all_goals simp only [drive_resp, onY0_y0, classBits_index]
  · exact extractFrameAddress_buildPte_of_inContract contract
  · rw [boolWord_eq_one_iff, anyBitOf_buildPte_flagMask, getLsbD_classBits_iff]
  · rw [boolWord_eq_zero_iff, isLeaf_buildPte, isLeaf_bits_iff]
  · exact classify_buildPte_bits f k

/-- R131, R132: the class table in numbers, with the zero of decision D10 at the reserved index. -/
theorem classBits_eq_getD : ∀ k : ClassIndex, classBits k =
    [0x001#64, 0x003#64, 0x007#64, 0x009#64, 0x00B#64, 0x00F#64, 0x01F#64, 0x000#64].getD k.toNat 0#64 := by decide

/-- Settles O8: the table in numbers, at the index and, through the code `0x7`, at `a[2:0]`. -/
theorem permclsReadsTheClassTable : Obligations.PermclsReadsTheClassTable := by
  have exec_table (k : ClassIndex) (s : State) := (exec_permcls k s).trans (by rw [classBits_eq_getD])
  refine ⟨exec_table, fun a b c d s => ?_⟩
  have code : Opcode.ofOp 0x7#4 = some .PERMCLS := ofOp_code .PERMCLS
  have index : (classIndexOf a).toNat = a.toNat % 8 := BitVec.toNat_setWidth ..
  rw [step_issue_of_ofOp code, ← index]
  exact exec_table (classIndexOf a) _

end Sys2Proof.Machine
end
